-- ==== Sys2Proof/Word.lean ====
section
/-! DEFINITION. The word types of the CHIP-8 CORE (spec/00_scope.md R5, R6): bytes, 16-bit words, 12-bit
addresses, register indices, and the zero extensions between them. Every value is unsigned (R6). -/

namespace Sys2Proof

/-- An 8-bit unsigned value: a V register, a timer, a byte of memory (R20, R31, R51). -/
abbrev Byte := BitVec 8

/-- A 16-bit unsigned value: an instruction word, pc, I, a stack entry (R22, R23, R24, R70). -/
abbrev Word := BitVec 16

/-- The 12-bit operand NNN (R71). -/
abbrev Addr12 := BitVec 12

/-- The index of a general register V0 to VF (R20). -/
abbrev Reg := Fin 16

/-- VF, general register 15, the machine's only flag (R21). -/
abbrev VF : Reg := 15

/-- V0, the offset register of `JP V0, nnn` (R117). -/
abbrev V0 : Reg := 0

/-- A row of the framebuffer: 64 one-bit pixels, bit x is the pixel of column x (R27). -/
abbrev Row := BitVec 64

/-- The flag value written to VF: 0x00 or 0x01, into all 8 bits (R21). -/
def flag (b : Bool) : Byte := if b then 1 else 0

@[simp] theorem flag_true : flag true = 1 := rfl
@[simp] theorem flag_false : flag false = 0 := rfl

end Sys2Proof
end

