-- ==== Sys2Proof/Syntax.lean ====
section
/-! DEFINITION. The instructions of the CHIP-8 CORE: one constructor per row of spec/opcode_table.json, in the
table's order (spec/30_encoding.md R75). -/

namespace Sys2Proof

/-- The 34 instructions of R75 with their operand fields (R71, R73): X and Y are register indices, NN an 8-bit
immediate, NNN a 12-bit address, N a count. -/
inductive Instr where
  /-- 00E0 `CLS` (R150) -/
  | cls
  /-- 00EE `RET` (R110) -/
  | ret
  /-- 1NNN `JP nnn` (R111) -/
  | jp (nnn : Addr12)
  /-- 2NNN `CALL nnn` (R112) -/
  | call (nnn : Addr12)
  /-- 3XNN `SE Vx, nn` (R113) -/
  | seImm (x : Reg) (nn : Byte)
  /-- 4XNN `SNE Vx, nn` (R114) -/
  | sneImm (x : Reg) (nn : Byte)
  /-- 5XY0 `SE Vx, Vy` (R115) -/
  | seReg (x y : Reg)
  /-- 6XNN `LD Vx, nn` (R120) -/
  | ldImm (x : Reg) (nn : Byte)
  /-- 7XNN `ADD Vx, nn` (R121) -/
  | addImm (x : Reg) (nn : Byte)
  /-- 8XY0 `LD Vx, Vy` (R122) -/
  | ldReg (x y : Reg)
  /-- 8XY1 `OR Vx, Vy` (R123) -/
  | orReg (x y : Reg)
  /-- 8XY2 `AND Vx, Vy` (R124) -/
  | andReg (x y : Reg)
  /-- 8XY3 `XOR Vx, Vy` (R125) -/
  | xorReg (x y : Reg)
  /-- 8XY4 `ADD Vx, Vy` (R126) -/
  | addReg (x y : Reg)
  /-- 8XY5 `SUB Vx, Vy` (R127) -/
  | sub (x y : Reg)
  /-- 8XY6 `SHR Vx, Vy` (R128) -/
  | shr (x y : Reg)
  /-- 8XY7 `SUBN Vx, Vy` (R129) -/
  | subn (x y : Reg)
  /-- 8XYE `SHL Vx, Vy` (R130) -/
  | shl (x y : Reg)
  /-- 9XY0 `SNE Vx, Vy` (R116) -/
  | sneReg (x y : Reg)
  /-- ANNN `LD I, nnn` (R140) -/
  | ldI (nnn : Addr12)
  /-- BNNN `JP V0, nnn` (R117) -/
  | jpV0 (nnn : Addr12)
  /-- CXNN `RND Vx, nn` (R131) -/
  | rnd (x : Reg) (nn : Byte)
  /-- DXYN `DRW Vx, Vy, n` (R151); n is a count of rows, 0 to 15 (R73) -/
  | drw (x y : Reg) (n : Nat)
  /-- EX9E `SKP Vx` (R160) -/
  | skp (x : Reg)
  /-- EXA1 `SKNP Vx` (R161) -/
  | sknp (x : Reg)
  /-- FX07 `LD Vx, DT` (R163) -/
  | ldVxDT (x : Reg)
  /-- FX0A `LD Vx, K` (R162) -/
  | ldVxK (x : Reg)
  /-- FX15 `LD DT, Vx` (R164) -/
  | ldDTVx (x : Reg)
  /-- FX18 `LD ST, Vx` (R165) -/
  | ldSTVx (x : Reg)
  /-- FX1E `ADD I, Vx` (R141) -/
  | addI (x : Reg)
  /-- FX29 `LD F, Vx` (R142) -/
  | ldF (x : Reg)
  /-- FX33 `LD B, Vx` (R143) -/
  | ldB (x : Reg)
  /-- FX55 `LD [I], Vx` (R144) -/
  | storeRegs (x : Reg)
  /-- FX65 `LD Vx, [I]` (R145) -/
  | loadRegs (x : Reg)
deriving DecidableEq, Repr

end Sys2Proof
end

