-- ==== Sys2Proof/Decode.lean ====
section
/-! DEFINITION. Decoding and encoding of instruction words (spec/30_encoding.md). The decoder is total: every list of
bytes gives an instruction and the bytes after it, or a rejection with a name. -/

namespace Sys2Proof

/-! ## Fields (R71) -/

/-- The family F, bits 15:12. -/
def fieldF (w : Word) : BitVec 4 := w.extractLsb' 12 4

/-- X, bits 11:8. -/
def fieldX (w : Word) : BitVec 4 := w.extractLsb' 8 4

/-- Y, bits 7:4. -/
def fieldY (w : Word) : BitVec 4 := w.extractLsb' 4 4

/-- N, bits 3:0. -/
def fieldN (w : Word) : BitVec 4 := w.extractLsb' 0 4

/-- NN, bits 7:0. -/
def fieldNN (w : Word) : Byte := w.extractLsb' 0 8

/-- NNN, bits 11:0. -/
def fieldNNN (w : Word) : Addr12 := w.extractLsb' 0 12

/-- The register a 4-bit field selects (R20). -/
def regOf (f : BitVec 4) : Reg := f.toFin

/-- The 4-bit field that selects a register. -/
def regField (r : Reg) : BitVec 4 := BitVec.ofFin r

/-- A word of format XY or XYN from its four nibbles, family first (R72). -/
def packXYN (f x y n : BitVec 4) : Word := f ++ x ++ y ++ n

/-- A word of format XNN or X from family, X and the low byte (R72). -/
def packXNN (f x : BitVec 4) (nn : Byte) : Word := f ++ x ++ nn

/-- A word of format NNN from family and address (R72). -/
def packNNN (f : BitVec 4) (nnn : Addr12) : Word := f ++ nnn

/-- A word from its two bytes, the byte of the lower address in bits 15:8 (R55). -/
def wordOfBytes (hi lo : Byte) : Word := hi ++ lo

/-- The byte of a word that stands at the lower address (R55). -/
def highByte (w : Word) : Byte := w.extractLsb' 8 8

/-- The byte of a word that stands at the higher address (R55). -/
def lowByte (w : Word) : Byte := w.extractLsb' 0 8

/-! ## The opcode map (R75) -/

/-- A row of the opcode map: a word w selects the row when w & mask = pattern (R74). -/
structure OpcodeRow where
  mnemonic : String
  mask     : Word
  pattern  : Word
deriving DecidableEq, Repr

/-- The row of R75 that an instruction belongs to. -/
def Instr.row : Instr → OpcodeRow
  | .cls => ⟨"CLS", 0xFFFF, 0x00E0⟩
  | .ret => ⟨"RET", 0xFFFF, 0x00EE⟩
  | .jp _ => ⟨"JP nnn", 0xF000, 0x1000⟩
  | .call _ => ⟨"CALL nnn", 0xF000, 0x2000⟩
  | .seImm _ _ => ⟨"SE Vx, nn", 0xF000, 0x3000⟩
  | .sneImm _ _ => ⟨"SNE Vx, nn", 0xF000, 0x4000⟩
  | .seReg _ _ => ⟨"SE Vx, Vy", 0xF00F, 0x5000⟩
  | .ldImm _ _ => ⟨"LD Vx, nn", 0xF000, 0x6000⟩
  | .addImm _ _ => ⟨"ADD Vx, nn", 0xF000, 0x7000⟩
  | .ldReg _ _ => ⟨"LD Vx, Vy", 0xF00F, 0x8000⟩
  | .orReg _ _ => ⟨"OR Vx, Vy", 0xF00F, 0x8001⟩
  | .andReg _ _ => ⟨"AND Vx, Vy", 0xF00F, 0x8002⟩
  | .xorReg _ _ => ⟨"XOR Vx, Vy", 0xF00F, 0x8003⟩
  | .addReg _ _ => ⟨"ADD Vx, Vy", 0xF00F, 0x8004⟩
  | .sub _ _ => ⟨"SUB Vx, Vy", 0xF00F, 0x8005⟩
  | .shr _ _ => ⟨"SHR Vx, Vy", 0xF00F, 0x8006⟩
  | .subn _ _ => ⟨"SUBN Vx, Vy", 0xF00F, 0x8007⟩
  | .shl _ _ => ⟨"SHL Vx, Vy", 0xF00F, 0x800E⟩
  | .sneReg _ _ => ⟨"SNE Vx, Vy", 0xF00F, 0x9000⟩
  | .ldI _ => ⟨"LD I, nnn", 0xF000, 0xA000⟩
  | .jpV0 _ => ⟨"JP V0, nnn", 0xF000, 0xB000⟩
  | .rnd _ _ => ⟨"RND Vx, nn", 0xF000, 0xC000⟩
  | .drw _ _ _ => ⟨"DRW Vx, Vy, n", 0xF000, 0xD000⟩
  | .skp _ => ⟨"SKP Vx", 0xF0FF, 0xE09E⟩
  | .sknp _ => ⟨"SKNP Vx", 0xF0FF, 0xE0A1⟩
  | .ldVxDT _ => ⟨"LD Vx, DT", 0xF0FF, 0xF007⟩
  | .ldVxK _ => ⟨"LD Vx, K", 0xF0FF, 0xF00A⟩
  | .ldDTVx _ => ⟨"LD DT, Vx", 0xF0FF, 0xF015⟩
  | .ldSTVx _ => ⟨"LD ST, Vx", 0xF0FF, 0xF018⟩
  | .addI _ => ⟨"ADD I, Vx", 0xF0FF, 0xF01E⟩
  | .ldF _ => ⟨"LD F, Vx", 0xF0FF, 0xF029⟩
  | .ldB _ => ⟨"LD B, Vx", 0xF0FF, 0xF033⟩
  | .storeRegs _ => ⟨"LD [I], Vx", 0xF0FF, 0xF055⟩
  | .loadRegs _ => ⟨"LD Vx, [I]", 0xF0FF, 0xF065⟩

/-- The 34 rows of R75's opcode map, in its order. -/
def opcodeMap : List OpcodeRow :=
  [Instr.row .cls, Instr.row .ret, Instr.row (.jp 0), Instr.row (.call 0), Instr.row (.seImm 0 0), Instr.row (.sneImm 0 0), Instr.row (.seReg 0 0), Instr.row (.ldImm 0 0), Instr.row (.addImm 0 0)] ++
  [Instr.row (.ldReg 0 0), Instr.row (.orReg 0 0), Instr.row (.andReg 0 0), Instr.row (.xorReg 0 0), Instr.row (.addReg 0 0), Instr.row (.sub 0 0), Instr.row (.shr 0 0), Instr.row (.subn 0 0), Instr.row (.shl 0 0), Instr.row (.sneReg 0 0)] ++
  [Instr.row (.ldI 0), Instr.row (.jpV0 0), Instr.row (.rnd 0 0), Instr.row (.drw 0 0 0), Instr.row (.skp 0), Instr.row (.sknp 0)] ++
  [Instr.row (.ldVxDT 0), Instr.row (.ldVxK 0), Instr.row (.ldDTVx 0), Instr.row (.ldSTVx 0), Instr.row (.addI 0), Instr.row (.ldF 0), Instr.row (.ldB 0), Instr.row (.storeRegs 0), Instr.row (.loadRegs 0)]

/-- R74: the word selects the row. -/
def OpcodeRow.selectedBy (r : OpcodeRow) (w : Word) : Bool := w &&& r.mask == r.pattern

/-! ## Decoding -/

/-- Family 0 is matched on all 16 bits (R74). -/
def decodeFamily0 (w : Word) : Option Instr :=
  if w = 0x00E0 then some .cls
  else if w = 0x00EE then some .ret
  else none

/-- Family 8: the variant is N (R75, R76). -/
def decodeFamily8 (w : Word) : Option Instr :=
  let x := regOf (fieldX w)
  let y := regOf (fieldY w)
  match fieldN w with
  | 0x0#4 => some (.ldReg x y)
  | 0x1#4 => some (.orReg x y)
  | 0x2#4 => some (.andReg x y)
  | 0x3#4 => some (.xorReg x y)
  | 0x4#4 => some (.addReg x y)
  | 0x5#4 => some (.sub x y)
  | 0x6#4 => some (.shr x y)
  | 0x7#4 => some (.subn x y)
  | 0xE#4 => some (.shl x y)
  | _ => none

/-- Family E: the variant is NN (R75, R76). -/
def decodeFamilyE (w : Word) : Option Instr :=
  let x := regOf (fieldX w)
  match fieldNN w with
  | 0x9E#8 => some (.skp x)
  | 0xA1#8 => some (.sknp x)
  | _ => none

/-- Family F: the variant is NN (R75, R76). -/
def decodeFamilyF (w : Word) : Option Instr :=
  let x := regOf (fieldX w)
  match fieldNN w with
  | 0x07#8 => some (.ldVxDT x)
  | 0x0A#8 => some (.ldVxK x)
  | 0x15#8 => some (.ldDTVx x)
  | 0x18#8 => some (.ldSTVx x)
  | 0x1E#8 => some (.addI x)
  | 0x29#8 => some (.ldF x)
  | 0x33#8 => some (.ldB x)
  | 0x55#8 => some (.storeRegs x)
  | 0x65#8 => some (.loadRegs x)
  | _ => none

/-- The instruction of a word, `none` where the word is `UNRECOGNISED` (R74, R76): the decoder looks at F, then at
the variant bits the family uses. `COMPAT` does not change how a word is decoded (R70). -/
def decodeWord (w : Word) : Option Instr :=
  let x := regOf (fieldX w)
  let y := regOf (fieldY w)
  let nn := fieldNN w
  let nnn := fieldNNN w
  match fieldF w with
  | 0x0#4 => decodeFamily0 w
  | 0x1#4 => some (.jp nnn)
  | 0x2#4 => some (.call nnn)
  | 0x3#4 => some (.seImm x nn)
  | 0x4#4 => some (.sneImm x nn)
  | 0x5#4 => if fieldN w = 0 then some (.seReg x y) else none
  | 0x6#4 => some (.ldImm x nn)
  | 0x7#4 => some (.addImm x nn)
  | 0x8#4 => decodeFamily8 w
  | 0x9#4 => if fieldN w = 0 then some (.sneReg x y) else none
  | 0xA#4 => some (.ldI nnn)
  | 0xB#4 => some (.jpV0 nnn)
  | 0xC#4 => some (.rnd x nn)
  | 0xD#4 => some (.drw x y (fieldN w).toNat)
  | 0xE#4 => decodeFamilyE w
  | 0xF#4 => decodeFamilyF w
  | _ => none

/-- Why bytes are no instruction. -/
inductive DecodeReject where
  /-- Fewer than the two bytes of an instruction word (R70). -/
  | truncated
  /-- The word is one of R76's unrecognised words. -/
  | unrecognised (opcode : Word)
deriving DecidableEq, Repr

/-- Decode the instruction at the head of a list of bytes, lowest address first (R55, R70): the instruction and the
bytes after it, or the reason there is none. -/
def decode : List Byte → Except DecodeReject (Instr × List Byte)
  | hi :: lo :: rest =>
    match decodeWord (wordOfBytes hi lo) with
    | some i => .ok (i, rest)
    | none => .error (.unrecognised (wordOfBytes hi lo))
  | _ => .error .truncated

/-! ## Encoding -/

/-- The word of an instruction: the bits of R72's patterns, family first. -/
def encode : Instr → Word
  | .cls => 0x00E0
  | .ret => 0x00EE
  | .jp nnn => packNNN 0x1#4 nnn
  | .call nnn => packNNN 0x2#4 nnn
  | .seImm x nn => packXNN 0x3#4 (regField x) nn
  | .sneImm x nn => packXNN 0x4#4 (regField x) nn
  | .seReg x y => packXYN 0x5#4 (regField x) (regField y) 0x0#4
  | .ldImm x nn => packXNN 0x6#4 (regField x) nn
  | .addImm x nn => packXNN 0x7#4 (regField x) nn
  | .ldReg x y => packXYN 0x8#4 (regField x) (regField y) 0x0#4
  | .orReg x y => packXYN 0x8#4 (regField x) (regField y) 0x1#4
  | .andReg x y => packXYN 0x8#4 (regField x) (regField y) 0x2#4
  | .xorReg x y => packXYN 0x8#4 (regField x) (regField y) 0x3#4
  | .addReg x y => packXYN 0x8#4 (regField x) (regField y) 0x4#4
  | .sub x y => packXYN 0x8#4 (regField x) (regField y) 0x5#4
  | .shr x y => packXYN 0x8#4 (regField x) (regField y) 0x6#4
  | .subn x y => packXYN 0x8#4 (regField x) (regField y) 0x7#4
  | .shl x y => packXYN 0x8#4 (regField x) (regField y) 0xE#4
  | .sneReg x y => packXYN 0x9#4 (regField x) (regField y) 0x0#4
  | .ldI nnn => packNNN 0xA#4 nnn
  | .jpV0 nnn => packNNN 0xB#4 nnn
  | .rnd x nn => packXNN 0xC#4 (regField x) nn
  | .drw x y n => packXYN 0xD#4 (regField x) (regField y) (BitVec.ofNat 4 n)
  | .skp x => packXNN 0xE#4 (regField x) 0x9E#8
  | .sknp x => packXNN 0xE#4 (regField x) 0xA1#8
  | .ldVxDT x => packXNN 0xF#4 (regField x) 0x07#8
  | .ldVxK x => packXNN 0xF#4 (regField x) 0x0A#8
  | .ldDTVx x => packXNN 0xF#4 (regField x) 0x15#8
  | .ldSTVx x => packXNN 0xF#4 (regField x) 0x18#8
  | .addI x => packXNN 0xF#4 (regField x) 0x1E#8
  | .ldF x => packXNN 0xF#4 (regField x) 0x29#8
  | .ldB x => packXNN 0xF#4 (regField x) 0x33#8
  | .storeRegs x => packXNN 0xF#4 (regField x) 0x55#8
  | .loadRegs x => packXNN 0xF#4 (regField x) 0x65#8

/-- The two bytes of an instruction, lowest address first (R55). -/
def encodeBytes (i : Instr) : List Byte := [highByte (encode i), lowByte (encode i)]

/-! ## The opcode table's numbering -/

/-- The word of `nbits` bits `w`, numbered as spec/opcode_table.json numbers them: one 16-bit word, bit 0 its least
significant bit; bits at or above `nbits` are 0. -/
def tableWord (nbits w : Nat) : Word := BitVec.ofNat 16 (w % 2 ^ nbits)

/-- The instruction the decoder reads from the table's word, laid out in memory as the hardware stores it. -/
def decodeTableWord (nbits w : Nat) : Option Instr :=
  match decode [highByte (tableWord nbits w), lowByte (tableWord nbits w)] with
  | .ok (i, _) => some i
  | .error _ => none

end Sys2Proof
end

