-- ==== Sys2Proof/Config.lean ====
section
/-! DEFINITION. The implementation parameters of spec/00_scope.md R5, and the free value of `RND`. -/

namespace Sys2Proof

/-- The configuration switch `COMPAT` (R34): which of the two shift semantics the machine has. -/
inductive Compat where
  | legacy
  | modern
deriving DecidableEq, Repr

namespace Config

/-- `MEM_SIZE`: 4096 bytes, addresses 0x000 to 0xFFF (R5, R51). -/
abbrev memSize : Nat := 0x1000

/-- The last valid address, 0xFFF (R51, R53). -/
abbrev lastAddr : Nat := 0xFFF

/-- The last address an instruction can be fetched from, 0xFFE (R93). -/
abbrev lastFetch : Nat := 0xFFE

/-- `PROG_BASE`: where the program image is loaded and the reset value of pc (R5, R23). -/
abbrev progBase : Nat := 0x200

/-- `FONT_BASE`: where the font stands (R5, R52). -/
abbrev fontBase : Nat := 0x000

/-- `FONT_LEN`: 80 bytes (R5). -/
abbrev fontLen : Nat := 80

/-- The bytes of one glyph (R52). -/
abbrev glyphLen : Nat := 5

/-- The default of the open parameter `STACK_CAP` (R5, R24; log 2). -/
abbrev defaultStackCap : Nat := 16

/-- One period of the 60 Hz timers, in seconds (R210). -/
def timerPeriod : Rat := 1 / 60

/-- FREE VALUE (log 5): the random byte of the n-th executed `RND`, `draw8()` of R7 and R131. It has no body:
nothing is known of it, so a claim about a draw holds for every draw. -/
opaque draw8 : Nat → Byte

end Config
end Sys2Proof
end

