-- ==== Sys2Proof/Machine/State.lean ====
section
/-! DEFINITION. The state of one machine instance (spec/10_state.md R20 to R41), plain data, and the state after
reset. The last three fields of `State` are the model's own (logs 5, 7, 8). -/

namespace Sys2Proof.Machine

/-- The three engine states (R35, R200). -/
inductive EngineState where
  | running
  | awaitingKey
  | faulted
deriving DecidableEq, Repr

/-- The seven faults of R201 and the information each records. They are the values of `faultReason`: a fault is
TAKEN, as R205 describes it, by a next state whose engine is FAULTED. No step of the model answers `Outcome.fault`
(log 9), so none of them ends a run: safe. -/
inductive Fault where
  /-- Raised by `engineStep` before the fetch, when pc > 0xFFE (R93); records pc. Safe: taken as R205 says. -/
  | pcOutOfRange (pc : Word)
  /-- Raised by `engineStep` before the fetch, when pc ≤ 0xFFE is odd (R93); records pc. Safe: taken as R205 says. -/
  | pcOdd (pc : Word)
  /-- Raised by `LD B, Vx`, `LD [I], Vx`, `LD Vx, [I]`, `DRW` (R143, R144, R145, R151); records the bound that
  failed. Safe: taken as R205 says. -/
  | memOutOfRange (bound : Nat)
  /-- Raised by `CALL nnn` when the stack is full (R112). Safe: taken as R205 says. -/
  | stackOverflow
  /-- Raised by `RET` when the stack is empty (R110). Safe: taken as R205 says. -/
  | stackUnderflow
  /-- Raised by `SKP Vx`, `SKNP Vx` when VX > 15 (R160, R161); records VX. Safe: taken as R205 says. -/
  | keyIndexOutOfRange (value : Byte)
  /-- Raised by `LD F, Vx` when VX > 15 (R142); records VX. Safe: taken as R205 says. -/
  | fontIndexOutOfRange (value : Byte)
deriving DecidableEq, Repr

/-- Why the model has no meaning for an instruction. Every instruction has one, so nothing raises it. -/
inductive Refusal where
  /-- An instruction still rejected by name in `exec`; no arm of `exec` is. Safe: it would end the run. -/
  | notModelled (mnemonic : String)
deriving DecidableEq, Repr

/-- The two events the machine emits (R37); nothing in the machine reads them. -/
inductive Output where
  /-- The diagnostic of an unrecognised word: its address and the word (R97, R203). -/
  | unrecognisedOpcode (pc : Word) (opcode : Word)
  /-- The sound timer went from 1 to 0 by the timer agent (R212). -/
  | stopTone
deriving DecidableEq, Repr

/-- A call the host makes on an existing machine that can change its state (R100, R215). -/
inductive HostCall where
  /-- `step()` (R90). -/
  | step
  /-- `tick(elapsed)`, elapsed seconds of wall-clock time (R210; rational, log 6). -/
  | tick (elapsed : Rat)
  /-- `setKey(index, pressed)`; an index outside 0 to 15 is ignored (R213). -/
  | setKey (index : Int) (pressed : Bool)
  /-- `readFramebuffer()` (R214). -/
  | readFramebuffer
deriving DecidableEq, Repr

/-- Main memory: (address, byte) pairs in one canonical form (`Memory.wf`), unlisted addresses reading as after
reset (R52; log 4). -/
abbrev Memory := List Host.Cell

/-- The framebuffer: 32 rows of 64 one-bit pixels (R27; log 12). -/
abbrev Framebuffer := Vector Row 32

/-- The state of one machine instance. -/
structure State where
  /-- V0 to VF (R20). -/
  v            : Vector Byte 16
  /-- The index register I, 16 bits, 12 of them valid (R22). -/
  i            : Word
  /-- The program counter (R23). -/
  pc           : Word
  /-- The stack pointer: how many stack entries are in use (R25). -/
  sp           : Byte
  /-- The call stack; its length is `STACK_CAP` (R24; log 2). -/
  stack        : List Word
  /-- Main memory, 4096 bytes (R26, R51). -/
  mem          : Memory
  /-- The framebuffer (R27). -/
  fb           : Framebuffer
  /-- The damaged flag (R28). -/
  damaged      : Bool
  /-- The key states; true is pressed (R29). -/
  keys         : Vector Bool 16
  /-- The latch's waiting flag (R30). -/
  latchWaiting : Bool
  /-- The latch's target register, meaningful while waiting (R30). -/
  latchTarget  : Reg
  /-- The delay timer DT (R31). -/
  dt           : Byte
  /-- The sound timer ST (R32). -/
  st           : Byte
  /-- Seconds since the delay timer's last decrement opportunity (R33). -/
  dtPhase      : Rat
  /-- Seconds since the sound timer's last decrement opportunity (R33). -/
  stPhase      : Rat
  /-- `COMPAT`, fixed at initialisation (R34). -/
  compat       : Compat
  /-- The engine state (R35). -/
  engineState  : EngineState
  /-- The fault reason, none while the engine is not FAULTED (R36). -/
  faultReason  : Option Fault
  /-- MODEL'S OWN (log 5): how many random bytes have been drawn; the next one is `Config.draw8 draws`. -/
  draws        : Nat
  /-- MODEL'S OWN (log 8): the events emitted so far, newest first (R37). -/
  outputs      : List Output
  /-- MODEL'S OWN (log 7): the host's next calls, oldest first; when there is none the host calls `step()`. -/
  hostCalls    : List HostCall
deriving DecidableEq, Repr

/-- `STACK_CAP` of this machine (R24). -/
def State.stackCap (s : State) : Nat := s.stack.length

/-- The state after a successful `initialize` with an empty ROM (R40), the default `FONT` and `STACK_CAP`
(R5), and `COMPAT` = `modern` (DESIGN CHOICE, log 1). The three last fields are DESIGN CHOICE (logs 5, 7, 8). -/
def State.reset : State where
  v            := Vector.replicate 16 0
  i            := 0
  pc           := 0x0200
  sp           := 0
  stack        := List.replicate Config.defaultStackCap 0
  mem          := []
  fb           := Vector.replicate 32 0
  damaged      := false
  keys         := Vector.replicate 16 false
  latchWaiting := false
  latchTarget  := 0
  dt           := 0
  st           := 0
  dtPhase      := 0
  stPhase      := 0
  compat       := .modern
  engineState  := .running
  faultReason  := none
  draws        := 0
  outputs      := []
  hostCalls    := []

end Sys2Proof.Machine
end

