-- ==== Sys2Proof/Machine/Ops.lean ====
section
/-! DEFINITION. The named operations every meaning is written with: reads and writes of registers and memory, pushing
and popping, the pc advance (R96), raising a fault (R205). -/

namespace Sys2Proof.Machine

/-! ## Main memory (R51 to R53) -/

/-- The default `FONT`, glyphs 0 to 7 (R52). -/
def fontLow : List Byte :=
  [ 0xF0, 0x90, 0x90, 0x90, 0xF0,  0x20, 0x60, 0x20, 0x20, 0x70
  , 0xF0, 0x10, 0xF0, 0x80, 0xF0,  0xF0, 0x10, 0xF0, 0x10, 0xF0
  , 0x90, 0x90, 0xF0, 0x10, 0x10,  0xF0, 0x80, 0xF0, 0x10, 0xF0
  , 0xF0, 0x80, 0xF0, 0x90, 0xF0,  0xF0, 0x10, 0x20, 0x40, 0x40 ]

/-- The default `FONT`, glyphs 8 to F (R52). -/
def fontHigh : List Byte :=
  [ 0xF0, 0x90, 0xF0, 0x90, 0xF0,  0xF0, 0x90, 0xF0, 0x10, 0xF0
  , 0xF0, 0x90, 0xF0, 0x90, 0x90,  0xE0, 0x90, 0xE0, 0x90, 0xE0
  , 0xF0, 0x80, 0x80, 0x80, 0xF0,  0xE0, 0x90, 0x90, 0x90, 0xE0
  , 0xF0, 0x80, 0xF0, 0x80, 0xF0,  0xF0, 0x80, 0xF0, 0x80, 0x80 ]

/-- The default of the open parameter `FONT`, 80 bytes: the table of R52, which the spec takes from general
knowledge (PRESUMED, log 3). -/
def defaultFont : List Byte := fontLow ++ fontHigh

/-- What an address that memory does not list reads as: the contents after reset with no ROM (R40, R52): the default
font at 0x000 to 0x04F and zero elsewhere (log 4). -/
def Memory.unlisted (a : Nat) : Byte := (defaultFont[a]?).getD 0

/-- The byte listed at an address. -/
def Memory.lookup : Memory → Nat → Option Byte
  | [], _ => none
  | (k, c) :: rest, a => if k = a then some c else Memory.lookup rest a

/-- The byte at an address, after the bounds check (`mem[a]` of R53). -/
def Memory.get (m : Memory) (a : Nat) : Byte := (m.lookup a).getD (Memory.unlisted a)

/-- A cell in front of a memory, unless an unlisted address already reads so. -/
def Memory.cell (a : Nat) (b : Byte) (rest : Memory) : Memory :=
  if b = Memory.unlisted a then rest else (a, b) :: rest

/-- `mem[a] <- b` after the bounds check (R53), in canonical form. -/
def Memory.put : Memory → Nat → Byte → Memory
  | [], a, b => Memory.cell a b []
  | (k, c) :: rest, a, b =>
    if k < a then (k, c) :: Memory.put rest a b
    else if k = a then Memory.cell a b rest
    else Memory.cell a b ((k, c) :: rest)

/-- The canonical form: addresses strictly rising and within memory, no entry equal to what an unlisted address reads
as. -/
abbrev Memory.wf (m : Memory) : Prop :=
  m.Pairwise (fun p q => p.1 < q.1) ∧ ∀ p ∈ m, p.1 < Config.memSize ∧ p.2 ≠ Memory.unlisted p.1

/-- Bytes stored at consecutive ascending addresses (R56). -/
def Memory.putAll : Memory → Nat → List Byte → Memory
  | m, _, [] => m
  | m, a, b :: bs => Memory.putAll (m.put a b) (a + 1) bs

/-- `n` bytes read from consecutive ascending addresses (R56). -/
def Memory.getAll (m : Memory) (a n : Nat) : List Byte := (List.range n).map fun k => m.get (a + k)

/-- The bounds check of R53: an address is out of range when it is above 0xFFF. It is never masked. Every instruction
that reads or writes memory makes it on its whole range before it touches any state (R53, R99). -/
def outOfRange (addr : Nat) : Bool := decide (Config.lastAddr < addr)

namespace State

/-! ## Registers (R20 to R25) -/

/-- `V[x]` (R20). -/
def reg (s : State) (x : Reg) : Byte := s.v[x.val]

/-- `V[x] <- b` (R20). -/
def setReg (s : State) (x : Reg) (b : Byte) : State := { s with v := s.v.set x.val b }

/-- The registers written all at once (the block load, R145). -/
def setRegs (s : State) (v : Vector Byte 16) : State := { s with v := v }

/-- `I <- a` (R22). -/
def setI (s : State) (a : Word) : State := { s with i := a }

/-- `pc <- a` (R23). -/
def setPc (s : State) (a : Word) : State := { s with pc := a }

/-- Memory replaced (the stores of R143, R144). -/
def setMem (s : State) (m : Memory) : State := { s with mem := m }

/-- `DT <- b` (R31). -/
def setDt (s : State) (b : Byte) : State := { s with dt := b }

/-- `ST <- b` (R32). -/
def setSt (s : State) (b : Byte) : State := { s with st := b }

/-- The framebuffer replaced and `damaged <- 1` (R28). -/
def setScreen (s : State) (f : Framebuffer) : State := { s with fb := f, damaged := true }

/-- An event emitted (R37; log 8). -/
def emit (s : State) (o : Output) : State := { s with outputs := o :: s.outputs }

/-- The random draw taken (R131; log 5): the byte is `Config.draw8 s.draws`, and the next draw is another. -/
def tookDraw (s : State) : State := { s with draws := s.draws + 1 }

/-! ## The call stack (R24, R25) -/

/-- `stack[sp] <- a; sp <- sp + 1` (R112). -/
def push (s : State) (a : Word) : State := { s with stack := s.stack.set s.sp.toNat a, sp := s.sp + 1 }

/-- The entry the next pop uncovers, `stack[sp - 1]` (R25, R110). -/
def top (s : State) : Word := (s.stack[s.sp.toNat - 1]?).getD 0

/-- `sp <- sp - 1` (R110); the popped entry keeps its value (R24). -/
def dropTop (s : State) : State := { s with sp := s.sp - 1 }

/-! ## The program counter (R96) -/

/-- `pc <- pc + 2`, in 16-bit arithmetic (R96). -/
def advance (s : State) : State := s.setPc (s.pc + 2)

/-- The skip policy: pc + 4 if the condition holds, pc + 2 otherwise (R96). -/
def skipIf (s : State) (c : Bool) : State := s.setPc (if c then s.pc + 4 else s.pc + 2)

/-! ## Engine state, key wait, faults -/

/-- Part 1 of the key wait: the latch waits for register x and the engine is AWAITING_KEY (R162). -/
def beginWait (s : State) (x : Reg) : State :=
  { s with latchWaiting := true, latchTarget := x, engineState := .awaitingKey }

/-- Part 3 of the key wait: pc <- pc + 2, the engine is RUNNING (R92, R162). -/
def endWait (s : State) : State := { s with pc := s.pc + 2, engineState := .running }

/-- `raise F(info)`, fault entry (R205): `engine_state <- FAULTED`, `fault_reason <-` the fault; nothing else
changes, nothing is saved and control goes nowhere. There is no return from a fault (R206). -/
def raise (s : State) (f : Fault) : State := { s with engineState := .faulted, faultReason := some f }

end State

/-- The outcome of an instruction that raises a fault (R205): the fault is taken. -/
def takeFault (s : State) (f : Fault) : Host.Outcome State Fault Refusal := .next (s.raise f)

/-- The numeric code of a fault (R201). -/
def Fault.code : Fault → Nat
  | .pcOutOfRange _ => 1
  | .pcOdd _ => 2
  | .memOutOfRange _ => 3
  | .stackOverflow => 4
  | .stackUnderflow => 5
  | .keyIndexOutOfRange _ => 6
  | .fontIndexOutOfRange _ => 7

end Sys2Proof.Machine
end

