-- ==== Sys2Proof/Machine/Flags.lean ====
section
/-! DEFINITION. The flag computations: what each of the seven flag-writing instructions of R21 puts in VF, from the
operand values before the instruction (R98). The collision flag of `DRW` is in Machine/Display.lean. -/

namespace Sys2Proof.Machine

/-- Carry of an 8-bit addition: 1 if a + b > 255 (R126). -/
def carry (a b : Byte) : Bool := decide (255 < a.toNat + b.toNat)

/-- No borrow of a - b: 1 if a ≥ b (R127, R129). -/
def noBorrow (a b : Byte) : Bool := decide (b.toNat ≤ a.toNat)

/-- The bit a right shift moves out, bit 0 (R128). -/
def outRight (a : Byte) : Bool := a.getLsbD 0

/-- The bit a left shift moves out, bit 7 (R130). -/
def outLeft (a : Byte) : Bool := a.getLsbD 7

/-- Index overflow: 1 if I + V[X] > 0xFFF, from the sum before the truncation (R141). -/
def indexOverflow (i : Word) (b : Byte) : Bool := decide (0xFFF < i.toNat + b.toNat)

/-- The sum I + V[X] truncated to 12 bits (R141). -/
def indexSum (i : Word) (b : Byte) : Word := BitVec.ofNat 16 ((i.toNat + b.toNat) % 0x1000)

/-- VF written as a flag: 0x00 or 0x01 (R21). Callers write it last (R98). -/
def State.setFlag (s : State) (b : Bool) : State := s.setReg VF (flag b)

end Sys2Proof.Machine
end

