-- ==== Sys2Proof/Machine/Operands.lean ====
section
/-! DEFINITION. The operand forms (spec/30_encoding.md R73, spec/43_index_memory.md): immediates, absolute targets,
the one addressing mode I + k, the indices into the key array and the font. Everything is unsigned and zero-extended. -/

namespace Sys2Proof.Machine

/-- `zext_16(NNN)`: the absolute target or address (R73, R111, R140). -/
def absolute (nnn : Addr12) : Word := nnn.setWidth 16

/-- `zext_16(NNN) + zext_16(V[0])`, a 16-bit sum, no mask (R117). -/
def indexedTarget (s : State) (nnn : Addr12) : Word := nnn.setWidth 16 + (s.reg V0).setWidth 16

/-- The effective address I + k, computed without bound before the check (R53, 43_index_memory.md). -/
def effAddr (s : State) (k : Nat) : Nat := s.i.toNat + k

/-- The number of registers a block transfer moves: V0 to VX, X + 1 of them (R144). -/
def blockLen (x : Reg) : Nat := x.val + 1

/-- The bytes a block store moves: V[0] .. V[X] in ascending order (R144). -/
def blockBytes (s : State) (x : Reg) : List Byte := s.v.toList.take (blockLen x)

/-- The registers after a block load: `V[k] <- mem[I + k]` for k in 0 .. X (R145). -/
def blockRegs (s : State) (x : Reg) : Vector Byte 16 :=
  Vector.ofFn fun k => if k ≤ x then s.mem.get (effAddr s k.val) else s.v[k.val]

/-- The last address of an N-row sprite at I, for N > 0 (R151). -/
def spriteEnd (s : State) (n : Nat) : Nat := s.i.toNat + n - 1

/-- The sprite's row bytes, row r at I + r (R151, R152). -/
def spriteRows (s : State) (n : Nat) : List Byte := s.mem.getAll s.i.toNat n

/-- The three decimal digits of a byte, hundreds first (R143). -/
def bcdDigits (b : Byte) : List Byte :=
  [BitVec.ofNat 8 (b.toNat / 100), BitVec.ofNat 8 (b.toNat / 10 % 10), BitVec.ofNat 8 (b.toNat % 10)]

/-- The address of the glyph of digit d, `FONT_BASE + 5 * d` (R142). -/
def glyphAddr (d : Byte) : Word := BitVec.ofNat 16 (Config.fontBase + Config.glyphLen * d.toNat)

/-- A value that indexes a table of 16 (keys, glyphs) is out of range above 15; it is not masked (R142, R160). -/
def indexTooLarge (b : Byte) : Bool := decide (15 < b.toNat)

/-- `key[k]`: the key of an index in 0 to 15 is pressed (R29). -/
def keyPressed (s : State) (k : Byte) : Bool := (s.keys[k.toNat]?).getD false

end Sys2Proof.Machine
end

