-- ==== Sys2Proof/Machine/Alu.lean ====
section
/-! DEFINITION. Register loads, arithmetic, logic, shifts, random (spec/42_alu.md). Each advances pc by 2 and raises
no fault; a flag write to VF comes last (R98). -/

namespace Sys2Proof.Machine

/-- The outcome of an instruction that writes VX and no flag. -/
def writeReg (s : State) (x : Reg) (b : Byte) : Host.Outcome State Fault Refusal := .next (s.setReg x b).advance

/-- The outcome of an instruction that writes VX and then VF as a flag (R98). -/
def writeRegFlag (s : State) (x : Reg) (b : Byte) (f : Bool) : Host.Outcome State Fault Refusal :=
  .next ((s.setReg x b).setFlag f).advance

/-- The outcome of a shift (R128, R130), given the shifted value of a byte and the bit shifted out: in `modern`
VX is shifted in place; in `legacy` VY is shifted, itself changed, and the result copied into VX. -/
def shiftOutcome (s : State) (x y : Reg) (shifted : Byte → Byte) (out : Byte → Bool) :
    Host.Outcome State Fault Refusal :=
  match s.compat with
  | .modern => .next ((s.setReg x (shifted (s.reg x))).setFlag (out (s.reg x))).advance
  | .legacy =>
    .next (((s.setReg y (shifted (s.reg y))).setReg x (shifted (s.reg y))).setFlag (out (s.reg y))).advance

/-- `LD Vx, nn` (R120). -/
def execLdImm (x : Reg) (nn : Byte) (s : State) : Host.Outcome State Fault Refusal := writeReg s x nn

/-- `ADD Vx, nn` (R121): wraps mod 256, VF is not written as a carry. -/
def execAddImm (x : Reg) (nn : Byte) (s : State) : Host.Outcome State Fault Refusal := writeReg s x (s.reg x + nn)

/-- `LD Vx, Vy` (R122). -/
def execLdReg (x y : Reg) (s : State) : Host.Outcome State Fault Refusal := writeReg s x (s.reg y)

/-- `OR Vx, Vy` (R123). -/
def execOr (x y : Reg) (s : State) : Host.Outcome State Fault Refusal := writeReg s x (s.reg x ||| s.reg y)

/-- `AND Vx, Vy` (R124). -/
def execAnd (x y : Reg) (s : State) : Host.Outcome State Fault Refusal := writeReg s x (s.reg x &&& s.reg y)

/-- `XOR Vx, Vy` (R125). -/
def execXor (x y : Reg) (s : State) : Host.Outcome State Fault Refusal := writeReg s x (s.reg x ^^^ s.reg y)

/-- `ADD Vx, Vy` (R126). -/
def execAdd (x y : Reg) (s : State) : Host.Outcome State Fault Refusal :=
  writeRegFlag s x (s.reg x + s.reg y) (carry (s.reg x) (s.reg y))

/-- `SUB Vx, Vy` (R127). -/
def execSub (x y : Reg) (s : State) : Host.Outcome State Fault Refusal :=
  writeRegFlag s x (s.reg x - s.reg y) (noBorrow (s.reg x) (s.reg y))

/-- `SUBN Vx, Vy` (R129). -/
def execSubn (x y : Reg) (s : State) : Host.Outcome State Fault Refusal :=
  writeRegFlag s x (s.reg y - s.reg x) (noBorrow (s.reg y) (s.reg x))

/-- `SHR Vx, Vy` (R128): a logical shift by one. -/
def execShr (x y : Reg) (s : State) : Host.Outcome State Fault Refusal :=
  shiftOutcome s x y (fun b => b >>> 1) outRight

/-- `SHL Vx, Vy` (R130). -/
def execShl (x y : Reg) (s : State) : Host.Outcome State Fault Refusal :=
  shiftOutcome s x y (fun b => b <<< 1) outLeft

/-- `RND Vx, nn` (R131): a free byte under the mask; the draw is taken whatever the mask is (log 5). -/
def execRnd (x : Reg) (nn : Byte) (s : State) : Host.Outcome State Fault Refusal :=
  writeReg s.tookDraw x (Config.draw8 s.draws &&& nn)

end Sys2Proof.Machine
end

