-- ==== Sys2Proof/Machine/Control.lean ====
section
/-! DEFINITION. Control transfer (spec/41_control_flow.md): RET, JP, CALL, the four register skips, JP V0. -/

namespace Sys2Proof.Machine

/-- The outcome of a skip: pc + 4 if the condition holds, pc + 2 otherwise (R96). -/
def skipOutcome (s : State) (c : Bool) : Host.Outcome State Fault Refusal := .next (s.skipIf c)

/-- `RET` (R110). -/
def execRet (s : State) : Host.Outcome State Fault Refusal :=
  if s.sp = 0 then takeFault s .stackUnderflow else .next (s.dropTop.setPc s.top)

/-- `JP nnn` (R111). -/
def execJp (nnn : Addr12) (s : State) : Host.Outcome State Fault Refusal := .next (s.setPc (absolute nnn))

/-- `CALL nnn` (R112); `CALL` checks sp < `STACK_CAP` before indexing (R59). -/
def execCall (nnn : Addr12) (s : State) : Host.Outcome State Fault Refusal :=
  if s.sp.toNat < s.stackCap then .next ((s.push (s.pc + 2)).setPc (absolute nnn))
  else takeFault s .stackOverflow

/-- `SE Vx, nn` (R113). -/
def execSeImm (x : Reg) (nn : Byte) (s : State) : Host.Outcome State Fault Refusal :=
  skipOutcome s (s.reg x == nn)

/-- `SNE Vx, nn` (R114). -/
def execSneImm (x : Reg) (nn : Byte) (s : State) : Host.Outcome State Fault Refusal :=
  skipOutcome s (s.reg x != nn)

/-- `SE Vx, Vy` (R115). -/
def execSeReg (x y : Reg) (s : State) : Host.Outcome State Fault Refusal :=
  skipOutcome s (s.reg x == s.reg y)

/-- `SNE Vx, Vy` (R116). -/
def execSneReg (x y : Reg) (s : State) : Host.Outcome State Fault Refusal :=
  skipOutcome s (s.reg x != s.reg y)

/-- `JP V0, nnn` (R117). -/
def execJpV0 (nnn : Addr12) (s : State) : Host.Outcome State Fault Refusal :=
  .next (s.setPc (indexedTarget s nnn))

end Sys2Proof.Machine
end

