-- ==== Sys2Proof/Machine/Display.lean ====
section
/-! DEFINITION. The framebuffer and the two instructions that write it (spec/44_display.md). -/

namespace Sys2Proof.Machine

/-- A coordinate pair is valid exactly when x ≤ 63 and y ≤ 31 (R60). -/
def onGrid (x y : Nat) : Bool := decide (x ≤ 63) && decide (y ≤ 31)

/-- `fb[x, y]`, false outside the grid (R27). -/
def Framebuffer.pixel (f : Framebuffer) (x y : Nat) : Bool := ((f[y]?).getD 0).getLsbD x

/-- The pixel of linear index `x + y*64` (R27). -/
def Framebuffer.linear (f : Framebuffer) (k : Nat) : Bool := Framebuffer.pixel f (k % 64) (k / 64)

/-- `fb[x, y] <- fb[x, y] ^ 1`; a pixel off the grid is dropped (R60, R151). -/
def Framebuffer.flip (f : Framebuffer) (x y : Nat) : Framebuffer :=
  if h : x < 64 ∧ y < 32 then f.set y (f[y] ^^^ BitVec.twoPow 64 x) else f

/-- Every pixel 0 (R150). -/
def Framebuffer.clear : Framebuffer := Vector.replicate 32 0

/-- What a draw carries from pixel to pixel: the framebuffer and the collision so far. -/
structure Drawing where
  fb        : Framebuffer
  collision : Bool
deriving DecidableEq, Repr

/-- One set sprite bit at (x, y): dropped off the grid; on it, a collision if the pixel was set, then the pixel is
XORed (R151). -/
def Drawing.plot (d : Drawing) (x y : Nat) : Drawing :=
  if onGrid x y then ⟨Framebuffer.flip d.fb x y, d.collision || Framebuffer.pixel d.fb x y⟩ else d

/-- Column c of a sprite row byte at (x0, y): bit 7 - c, bit 7 the leftmost pixel (R151, R152). -/
def Drawing.column (b : Byte) (x0 y : Nat) (d : Drawing) (c : Nat) : Drawing :=
  if b.getLsbD (7 - c) then d.plot (x0 + c) y else d

/-- One sprite row: c in 0 .. 7 (R151). -/
def Drawing.row (d : Drawing) (b : Byte) (x0 y : Nat) : Drawing := (List.range 8).foldl (Drawing.column b x0 y) d

/-- The sprite's rows downwards from y (R151, R152). -/
def Drawing.sprite : Drawing → List Byte → Nat → Nat → Drawing
  | d, [], _, _ => d
  | d, b :: bs, x0, y => Drawing.sprite (d.row b x0 y) bs x0 (y + 1)

/-- The draw of an N-row sprite at I, at (VX, VY) (R151): the start coordinates are not reduced. -/
def drawn (s : State) (x y : Reg) (n : Nat) : Drawing :=
  Drawing.sprite ⟨s.fb, false⟩ (spriteRows s n) (s.reg x).toNat (s.reg y).toNat

/-- `CLS` (R150). -/
def execCls (s : State) : Host.Outcome State Fault Refusal := .next (s.setScreen Framebuffer.clear).advance

/-- `DRW Vx, Vy, n` (R151): the rows are checked before any pixel changes; VF is written last, always. -/
def execDrw (x y : Reg) (n : Nat) (s : State) : Host.Outcome State Fault Refusal :=
  if decide (0 < n) && outOfRange (spriteEnd s n) then takeFault s (.memOutOfRange (spriteEnd s n))
  else .next ((s.setScreen (drawn s x y n).fb).setFlag (drawn s x y n).collision).advance

end Sys2Proof.Machine
end

