-- ==== Sys2Proof/Machine/Index.lean ====
section
/-! DEFINITION. Index register and memory transfers (spec/43_index_memory.md). A range is checked whole before any
state is touched (R53, R99). -/

namespace Sys2Proof.Machine

/-- `LD I, nnn` (R140). -/
def execLdI (nnn : Addr12) (s : State) : Host.Outcome State Fault Refusal := .next (s.setI (absolute nnn)).advance

/-- `ADD I, Vx` (R141): the flag comes from the sum before the truncation and is written last. -/
def execAddI (x : Reg) (s : State) : Host.Outcome State Fault Refusal :=
  .next ((s.setI (indexSum s.i (s.reg x))).setFlag (indexOverflow s.i (s.reg x))).advance

/-- `LD F, Vx` (R142). -/
def execLdF (x : Reg) (s : State) : Host.Outcome State Fault Refusal :=
  if indexTooLarge (s.reg x) then takeFault s (.fontIndexOutOfRange (s.reg x))
  else .next (s.setI (glyphAddr (s.reg x))).advance

/-- `LD B, Vx` (R143). -/
def execLdB (x : Reg) (s : State) : Host.Outcome State Fault Refusal :=
  if outOfRange (effAddr s 2) then takeFault s (.memOutOfRange (effAddr s 2))
  else .next (s.setMem (s.mem.putAll (effAddr s 0) (bcdDigits (s.reg x)))).advance

/-- The bound of a block transfer, I + X + 1, read literally (R144). -/
def blockBound (s : State) (x : Reg) : Nat := effAddr s (blockLen x)

/-- I advanced by X + 1 (R144, R145). -/
def State.advanceI (s : State) (x : Reg) : State := s.setI (BitVec.ofNat 16 (blockBound s x))

/-- `LD [I], Vx` (R144). -/
def execStoreRegs (x : Reg) (s : State) : Host.Outcome State Fault Refusal :=
  if outOfRange (blockBound s x) then takeFault s (.memOutOfRange (blockBound s x))
  else .next ((s.setMem (s.mem.putAll (effAddr s 0) (blockBytes s x))).advanceI x).advance

/-- `LD Vx, [I]` (R145). -/
def execLoadRegs (x : Reg) (s : State) : Host.Outcome State Fault Refusal :=
  if outOfRange (blockBound s x) then takeFault s (.memOutOfRange (blockBound s x))
  else .next ((s.setRegs (blockRegs s x)).advanceI x).advance

end Sys2Proof.Machine
end

