-- ==== Sys2Proof/Machine/Input.lean ====
section
/-! DEFINITION. Keypad and timer instructions (spec/45_input_timers.md). -/

namespace Sys2Proof.Machine

/-- `SKP Vx` (R160): a test of the key's level. -/
def execSkp (x : Reg) (s : State) : Host.Outcome State Fault Refusal :=
  if indexTooLarge (s.reg x) then takeFault s (.keyIndexOutOfRange (s.reg x))
  else .next (s.skipIf (keyPressed s (s.reg x)))

/-- `SKNP Vx` (R161). -/
def execSknp (x : Reg) (s : State) : Host.Outcome State Fault Refusal :=
  if indexTooLarge (s.reg x) then takeFault s (.keyIndexOutOfRange (s.reg x))
  else .next (s.skipIf (!keyPressed s (s.reg x)))

/-- `LD Vx, K`, part 1 (R162): pc does not change. Parts 2 and 3 are `setKey` and the completing step. -/
def execLdVxK (x : Reg) (s : State) : Host.Outcome State Fault Refusal := .next (s.beginWait x)

/-- `LD Vx, DT` (R163). -/
def execLdVxDT (x : Reg) (s : State) : Host.Outcome State Fault Refusal := .next (s.setReg x s.dt).advance

/-- `LD DT, Vx` (R164): the phase is not touched. -/
def execLdDTVx (x : Reg) (s : State) : Host.Outcome State Fault Refusal := .next (s.setDt (s.reg x)).advance

/-- `LD ST, Vx` (R165): the phase is not touched and no `stop_tone` is emitted. -/
def execLdSTVx (x : Reg) (s : State) : Host.Outcome State Fault Refusal := .next (s.setSt (s.reg x)).advance

end Sys2Proof.Machine
end

