-- ==== Sys2Proof/Machine/HostOps.lean ====
section
/-! DEFINITION. The host's operations other than `step()` (spec/60_exceptions.md R210 to R215,
spec/70_reset_and_hazards.md R240): the timer agent, the input latch, the framebuffer read, the read-only outputs and
initialisation. Each is atomic and falls between two steps (R100). -/

namespace Sys2Proof.Machine

/-! ## The timer agent (R210 to R212) -/

/-- The delay timer's decrement, saturating at 0 (R31, R210); `DelayTick` of the untimed view (R211). -/
def delayTick (s : State) : State := if s.dt = 0 then s else s.setDt (s.dt - 1)

/-- The sound timer's decrement, saturating at 0; from 1 to 0 it emits `stop_tone` (R210, R212); `SoundTick` of the
untimed view (R211). -/
def soundTick (s : State) : State :=
  if s.st = 0 then s
  else if s.st = 1 then (s.setSt 0).emit .stopTone
  else s.setSt (s.st - 1)

/-- The delay timer's share of a tick: when its phase reaches the period it is reset to 0 and the timer decrements
(R210). -/
def tickDelay (elapsed : Rat) (s : State) : State :=
  if Config.timerPeriod ≤ s.dtPhase + elapsed then delayTick { s with dtPhase := 0 }
  else { s with dtPhase := s.dtPhase + elapsed }

/-- The sound timer's share of a tick (R210). -/
def tickSound (elapsed : Rat) (s : State) : State :=
  if Config.timerPeriod ≤ s.stPhase + elapsed then soundTick { s with stPhase := 0 }
  else { s with stPhase := s.stPhase + elapsed }

/-- `tick(elapsed)` (R210): the same in every engine state; a negative elapsed time changes nothing. -/
def tick (elapsed : Rat) (s : State) : State :=
  if elapsed < 0 then s else tickSound elapsed (tickDelay elapsed s)

/-! ## The input latch (R213) -/

/-- The level of a key written, and a press edge delivered to a waiting latch: the key's index goes to the target
register and the wait is over (R213). -/
def latchKey (k : Fin 16) (pressed : Bool) (s : State) : State :=
  let was := s.keys[k.val]
  let s' := { s with keys := s.keys.set k.val pressed }
  if s.latchWaiting && !was && pressed then
    { s'.setReg s.latchTarget (BitVec.ofNat 8 k.val) with latchWaiting := false }
  else s'

/-- `setKey(index, pressed)` (R213): an index outside 0 to 15 is ignored; the same in every engine state. -/
def setKey (index : Int) (pressed : Bool) (s : State) : State :=
  if h : 0 ≤ index ∧ index ≤ 15 then latchKey ⟨index.toNat, by omega⟩ pressed s else s

/-! ## Reads (R214, R215) -/

/-- `damaged <- 0` (R214). -/
def clearDamaged (s : State) : State := { s with damaged := false }

/-- `readFramebuffer()` (R214): the pixels as they are, and the flag cleared. -/
def readFramebuffer (s : State) : Framebuffer × State := (s.fb, clearDamaged s)

/-- Reading the damaged flag changes nothing (R214). -/
def readDamaged (s : State) : Bool := s.damaged

/-- The engine state as the host reads it, and what `step()` returns after it (R35, R90, R215). -/
def readEngineState (s : State) : EngineState := s.engineState

/-- The fault reason as the host reads it (R36, R215). -/
def readFaultReason (s : State) : Option Fault := s.faultReason

/-! ## Initialisation (R240) -/

/-- Why `initMachine` fails; then no machine exists (R202). -/
inductive LoadFault where
  /-- The ROM's length would write past 0xFFF (R67). -/
  | romTooLarge (len : Nat)
deriving DecidableEq, Repr

/-- The implementation's open parameters (R5): `STACK_CAP` and `FONT`, with their defaults. -/
structure Params where
  stackCap : Nat := Config.defaultStackCap
  font     : List Byte := defaultFont
deriving DecidableEq, Repr

/-- The parameters R5 admits: `STACK_CAP` at least 16 and, because sp is 8 bits and holds 0 to `STACK_CAP` (R25), at
most 255 (DEDUCED, log 2); a font of 80 bytes. -/
abbrev Params.wf (p : Params) : Prop := 16 ≤ p.stackCap ∧ p.stackCap ≤ 255 ∧ p.font.length = Config.fontLen

/-- Memory after initialisation: zeroed, the font copied in, the ROM copied in at 0x200 (R240). With a font of 80
bytes the copy covers every address whose unlisted value is not zero. -/
def loadedMemory (p : Params) (rom : List Byte) : Memory :=
  Memory.putAll (Memory.putAll [] Config.fontBase p.font) Config.progBase rom

/-- The host operation of R240 that makes a machine, `initialize(romBytes, compat)`, with the given open parameters. -/
def initMachine (p : Params) (rom : List Byte) (compat : Compat) : Except LoadFault State :=
  if Config.memSize < Config.progBase + rom.length then .error (.romTooLarge rom.length)
  else .ok { State.reset with
    stack := List.replicate p.stackCap 0
    mem := loadedMemory p rom
    compat := compat }

end Sys2Proof.Machine
end

