-- ==== Sys2Proof/Machine/Engine.lean ====
section
/-! DEFINITION. The engine's step (spec/40_step_cycle.md R90 to R97): pc validation, fetch, decode, dispatch, the
waiting and the faulted engine; and the host's calls (spec/60_exceptions.md R215). -/

namespace Sys2Proof.Machine

/-- pc validation before the fetch, range first, then parity (R93, R204): the fault it raises, if any. -/
def pcFault (pc : Word) : Option Fault :=
  if Config.lastFetch < pc.toNat then some (.pcOutOfRange pc)
  else if pc.toNat % 2 = 1 then some (.pcOdd pc)
  else none

/-- The two bytes the fetch reads, at pc and pc + 1 (R55, R94). -/
def fetchBytes (s : State) : List Byte := s.mem.getAll s.pc.toNat 2

/-- The fetched opcode, the byte at pc in bits 15:8 (R55, R94). -/
def fetchWord (s : State) : Word := wordOfBytes (s.mem.get s.pc.toNat) (s.mem.get (s.pc.toNat + 1))

/-- An unrecognised word: the diagnostic event and pc <- pc + 2, nothing else (R97, R203). -/
def skipUnrecognised (opcode : Word) (s : State) : State :=
  (s.emit (.unrecognisedOpcode s.pc opcode)).advance

/-- Fetch, decode and dispatch of a RUNNING engine with a valid pc (R94, R95). -/
def fetchExecute (s : State) : Host.Outcome State Fault Refusal :=
  match decode (fetchBytes s) with
  | .ok (i, _) => exec i s
  | .error _ => .next (skipUnrecognised (fetchWord s) s)

/-- A step of a RUNNING engine (R90, R93). -/
def runningStep (s : State) : Host.Outcome State Fault Refusal :=
  match pcFault s.pc with
  | some f => takeFault s f
  | none => fetchExecute s

/-- A step of a waiting engine (R92): nothing while the latch waits, then part 3 of the key wait. -/
def waitingStep (s : State) : Host.Outcome State Fault Refusal :=
  if s.latchWaiting then .next s else .next s.endWait

/-- `step()` (R90): FAULTED changes nothing (R91). -/
def engineStep (s : State) : Host.Outcome State Fault Refusal :=
  match s.engineState with
  | .faulted => .next s
  | .awaitingKey => waitingStep s
  | .running => runningStep s

/-- One call of the host (R100, R215). -/
def hostCall (c : HostCall) (s : State) : Host.Outcome State Fault Refusal :=
  match c with
  | .step => engineStep s
  | .tick e => .next (tick e s)
  | .setKey k p => .next (setKey k p s)
  | .readFramebuffer => .next (readFramebuffer s).2

/-- The next event (log 7): the host's oldest call to come, or `step()` when there is none. -/
def nextEvent (s : State) : Host.Outcome State Fault Refusal :=
  match s.hostCalls with
  | [] => engineStep s
  | c :: rest => hostCall c { s with hostCalls := rest }

/-- Where the next instruction is fetched: pc if it can be fetched from, else `PROG_BASE` (log 10). -/
def fetchPlace (s : State) : Word := if pcFault s.pc = none then s.pc else BitVec.ofNat 16 Config.progBase

/-- An instruction word placed where the next step fetches it (log 10): its two bytes stored there, high byte at the
lower address (R55), and the engine RUNNING at it with no host call before it. Of a RUNNING engine with a valid pc and
no host call to come, only the two bytes of memory change. -/
def placeWord (s : State) (w : Word) : State :=
  { s with
    pc := fetchPlace s
    mem := s.mem.putAll (fetchPlace s).toNat [highByte w, lowByte w]
    engineState := .running
    faultReason := none
    latchWaiting := false
    hostCalls := [] }

end Sys2Proof.Machine
end

