-- ==== Sys2Proof/Machine/Step.lean ====
section
/-! DEFINITION. One step of the model, and the placing of an instruction word where it is fetched. The definitions they
call are in Machine/Engine.lean. -/

namespace Sys2Proof.Machine

/-- One event of the machine (R100): with no host call to come, `step()` (R90). -/
def step (s : State) : Host.Outcome State Fault Refusal := nextEvent s

/-- `s` with the table's word stored where `step` fetches its next instruction. -/
def State.withFetchWord (s : State) (nbits w : Nat) : State := placeWord s (tableWord nbits w)

end Sys2Proof.Machine
end

