-- ==== Sys2Proof/Safety.lean ====
section
/-! DEFINITION. The terms the claims are stated in: the invariant of every reachable state (spec/10_state.md R39) and
what an instruction may change (its frame). -/

namespace Sys2Proof.Machine

/-- The invariant of R39, with the canonical form of memory (log 4), the bounds of `STACK_CAP` (R24, log 2) and the
range of the two phases (R210). -/
structure State.Inv (s : State) : Prop where
  /-- I ≤ 0xFFF (R22). -/
  index : s.i.toNat ≤ 0xFFF
  /-- 0 ≤ sp ≤ `STACK_CAP` (R25). -/
  depth : s.sp.toNat ≤ s.stackCap
  /-- Every stack entry in use is ≤ 0x1000 (R39). -/
  entries : ∀ k, k < s.sp.toNat → ((s.stack[k]?).getD 0).toNat ≤ 0x1000
  /-- pc ≤ 0x10FE (R23). -/
  counter : s.pc.toNat ≤ 0x10FE
  /-- `latch_waiting = 1` implies AWAITING_KEY (R39). -/
  waiting : s.latchWaiting = true → s.engineState = .awaitingKey
  /-- AWAITING_KEY implies pc is even, pc ≤ 0xFFE and the word at pc is FX0A with X = `latch_target` (R39). -/
  parked : s.engineState = .awaitingKey →
    s.pc.toNat % 2 = 0 ∧ s.pc.toNat ≤ 0xFFE ∧ decodeWord (fetchWord s) = some (.ldVxK s.latchTarget)
  /-- `fault_reason = none` exactly when the engine is not FAULTED (R36, R39). -/
  reason : s.faultReason = none ↔ s.engineState ≠ .faulted
  /-- Memory is in its canonical form. -/
  memory : s.mem.wf
  /-- The capacity of the stack. -/
  capacity : 16 ≤ s.stackCap ∧ s.stackCap ≤ 255
  /-- The delay timer's phase is below one period. -/
  dtPhase : 0 ≤ s.dtPhase ∧ s.dtPhase < Config.timerPeriod
  /-- The sound timer's phase is below one period. -/
  stPhase : 0 ≤ s.stPhase ∧ s.stPhase < Config.timerPeriod

/-- What an instruction may change beside pc: the named registers, the bytes of memory it stores to, and the parts whose
mark is true. Everything not named stays. -/
structure Touches where
  regs   : List Reg := []
  stored : List Nat := []
  index  : Bool := false
  stack  : Bool := false
  screen : Bool := false
  dt     : Bool := false
  st     : Bool := false
  latch  : Bool := false
  draw   : Bool := false
deriving DecidableEq, Repr

/-- The frame: from `s` to `t` nothing but pc and what `w` names has changed. Memory is compared through the read of one
byte. No instruction changes the keys, the phases, `COMPAT`, the fault reason, the events emitted or the host's calls;
the engine state goes with the latch (R162). -/
structure ChangesOnly (w : Touches) (s t : State) : Prop where
  regs        : ∀ r : Reg, r ∉ w.regs → t.reg r = s.reg r
  mem         : ∀ a : Nat, a ∉ w.stored → t.mem.get a = s.mem.get a
  index       : w.index = false → t.i = s.i
  stack       : w.stack = false → t.sp = s.sp ∧ t.stack = s.stack
  screen      : w.screen = false → t.fb = s.fb ∧ t.damaged = s.damaged
  dt          : w.dt = false → t.dt = s.dt
  st          : w.st = false → t.st = s.st
  phases      : t.dtPhase = s.dtPhase ∧ t.stPhase = s.stPhase
  keys        : t.keys = s.keys
  latch       : w.latch = false →
    t.latchWaiting = s.latchWaiting ∧ t.latchTarget = s.latchTarget ∧ t.engineState = s.engineState
  faultReason : t.faultReason = s.faultReason
  compat      : t.compat = s.compat
  draws       : w.draw = false → t.draws = s.draws
  outputs     : t.outputs = s.outputs
  hostCalls   : t.hostCalls = s.hostCalls

/-- The next state an outcome holds, if it is one. -/
def nextOf : Host.Outcome State Fault Refusal → Option State
  | .next s => some s
  | .fault _ => none
  | .refused _ => none

end Sys2Proof.Machine
end

