-- ==== Sys2Proof/Certificates/Slice0/Obligations.lean ====
section
/-! DEFINITION. The statements of this row. Each docstring names the rule or the passage of spec/ it formalises. Where
the spec marks the passage as its own decision or inference, or as taken from general knowledge, the docstring says so. -/

open Sys2Proof Sys2Proof.Machine

/-! ## Encoding (spec/30_encoding.md) -/

/-- Decoding the word, or the two bytes, of any well-formed instruction gives it back, whatever bytes follow. -/
def Obligations.DecodeOfEncode : Prop :=
  ∀ i : Instr, i.wellFormed = true →
    decodeWord (encode i) = some i ∧ ∀ rest : List Byte, decode (encodeBytes i ++ rest) = .ok (i, rest)

/-- Every word that decodes to an instruction is that instruction's encoding, and the instruction is well-formed: each
word has one meaning and no bit of it is dropped (R78). -/
def Obligations.EncodeOfDecode : Prop :=
  ∀ (w : Word) (i : Instr), decodeWord w = some i → i.wellFormed = true ∧ encode i = w

/-- The decoder agrees with the opcode map: the instruction of a word belongs to the row the word selects by mask and
match, a word that selects no row is UNRECOGNISED, and no word selects two rows (R74, R75; the exact match is decision
D10, most opcode numbers are the spec's general knowledge, D9). -/
def Obligations.DecoderFollowsOpcodeMap : Prop :=
  (∀ w : Word, (decodeWord w).map Instr.row = opcodeMap.find? (fun r => r.selectedBy w)) ∧
  opcodeMap.Pairwise (fun r r' => ∀ w : Word, ¬ (r.selectedBy w = true ∧ r'.selectedBy w = true))

/-- The unrecognised words are exactly the sets of R76, family by family. -/
def Obligations.UnrecognisedWordsOfR76 : Prop :=
  ∀ w : Word, decodeWord w = none ↔
    ((w.toNat / 0x1000 = 0x0 ∧ w.toNat ≠ 0x00E0 ∧ w.toNat ≠ 0x00EE) ∨
     (w.toNat / 0x1000 = 0x5 ∧ w.toNat % 0x10 ≠ 0) ∨
     (w.toNat / 0x1000 = 0x8 ∧ w.toNat % 0x10 ∈ [0x8, 0x9, 0xA, 0xB, 0xC, 0xD, 0xF]) ∨
     (w.toNat / 0x1000 = 0x9 ∧ w.toNat % 0x10 ≠ 0) ∨
     (w.toNat / 0x1000 = 0xE ∧ w.toNat % 0x100 ∉ [0x9E, 0xA1]) ∨
     (w.toNat / 0x1000 = 0xF ∧ w.toNat % 0x100 ∉ [0x07, 0x0A, 0x15, 0x18, 0x1E, 0x29, 0x33, 0x55, 0x65]))

/-- Seven words of the six families 0, 2, 6, 8, D and F, written out from R72's patterns, decode to the instructions that
the opcode map gives them (R75; most opcode numbers are general knowledge, D9, log 13), and the words 0x0000 (decision
D11) and 0x5121 (decision D10) are no instruction (R76; log 13). -/
def Obligations.SpecWordsDecode : Prop :=
  decodeWord 0x00E0 = some .cls ∧ decodeWord 0x2210 = some (.call 0x210) ∧
  decodeWord 0x629D = some (.ldImm 2 0x9D) ∧ decodeWord 0x8F14 = some (.addReg 15 1) ∧
  decodeWord 0xD015 = some (.drw 0 1 5) ∧ decodeWord 0xF30A = some (.ldVxK 3) ∧
  decodeWord 0xF265 = some (.loadRegs 2) ∧ decodeWord 0x0000 = none ∧ decodeWord 0x5121 = none

/-! ## The step (spec/40_step_cycle.md) -/

/-- `s` with its next host call taken, where that call is `step()`: either there is none to come (then the host calls
`step()`, log 7) or the oldest one is `step()`. -/
def StepIsNext (s s' : State) : Prop :=
  (s.hostCalls = [] ∧ s' = s) ∨ ∃ rest, s.hostCalls = .step :: rest ∧ s' = { s with hostCalls := rest }

/-- A RUNNING engine whose pc passes the validation of R93 runs the instruction that the two bytes at pc, high byte at
the lower address, decode to: the step is `exec` of it. The fetch has no effect of its own (R94). -/
def Obligations.StepRunsDecodedInstruction : Prop :=
  ∀ (s s' : State) (i : Instr), StepIsNext s s' → s.engineState = .running →
    s.pc.toNat ≤ 0xFFE → s.pc.toNat % 2 = 0 →
    decodeWord (s.mem.get s.pc.toNat ++ s.mem.get (s.pc.toNat + 1)) = some i →
    step s = exec i s'

/-- An unrecognised word at a valid pc of a RUNNING engine: the diagnostic with its address and the word is emitted,
pc <- pc + 2, and nothing else changes (R97; the diagnostic's content is decision D34, its record log 8). -/
def Obligations.UnrecognisedWordIsSkipped : Prop :=
  ∀ s s' : State, StepIsNext s s' → s.engineState = .running →
    s.pc.toNat ≤ 0xFFE → s.pc.toNat % 2 = 0 →
    decodeWord (s.mem.get s.pc.toNat ++ s.mem.get (s.pc.toNat + 1)) = none →
    step s = .next { s' with
      pc := s.pc + 2
      outputs := .unrecognisedOpcode s.pc (s.mem.get s.pc.toNat ++ s.mem.get (s.pc.toNat + 1)) :: s.outputs }

/-- A RUNNING engine with pc above 0xFFE raises `PcOutOfRange`, else with an odd pc `PcOdd`; nothing is fetched and only
the engine state and the fault reason change (R93, R204, R205; decisions D4, D5, D26). -/
def Obligations.InvalidPcFaults : Prop :=
  ∀ s s' : State, StepIsNext s s' → s.engineState = .running →
    (0xFFE < s.pc.toNat →
      step s = .next { s' with engineState := .faulted, faultReason := some (.pcOutOfRange s.pc) }) ∧
    (s.pc.toNat ≤ 0xFFE → s.pc.toNat % 2 = 1 →
      step s = .next { s' with engineState := .faulted, faultReason := some (.pcOdd s.pc) })

/-- R91: in FAULTED, `step()` changes nothing and returns FAULTED. -/
def Obligations.FaultedStepChangesNothing : Prop :=
  ∀ s s' : State, StepIsNext s s' → s.engineState = .faulted →
    step s = .next s' ∧ readEngineState s' = .faulted

/-- In AWAITING_KEY, `step()` is a no-op while the latch waits; once it does not, pc <- pc + 2 and RUNNING, and nothing
else (R92; decision D22). -/
def Obligations.WaitingStepIsNoOpThenCompletes : Prop :=
  ∀ s s' : State, StepIsNext s s' → s.engineState = .awaitingKey →
    (s.latchWaiting = true → step s = .next s') ∧
    (s.latchWaiting = false → step s = .next { s' with pc := s.pc + 2, engineState := .running })

/-- The host's calls happen one at a time, oldest first, each by its own operation (R100, R215; the list is the model's
own, log 7): a tick, a key event, a framebuffer read (the pixels are those of the state before it, and it clears
`damaged`, decision D27), and `step()`, which acts as if no call were to come after it. -/
def Obligations.HostCallsHappenInOrder : Prop :=
  ∀ (s : State) (rest : List HostCall),
    (∀ e, s.hostCalls = .tick e :: rest → step s = .next (tick e { s with hostCalls := rest })) ∧
    (∀ k p, s.hostCalls = .setKey k p :: rest → step s = .next (setKey k p { s with hostCalls := rest })) ∧
    (s.hostCalls = .readFramebuffer :: rest →
      (readFramebuffer s).1 = s.fb ∧ step s = .next { s with hostCalls := rest, damaged := false }) ∧
    (s.hostCalls = .step :: rest →
      ∃ t, step { s with hostCalls := [] } = .next t ∧ step s = .next { t with hostCalls := rest })

/-- A word placed where the next instruction is fetched is the one the next step runs, in every state (log 10). -/
def Obligations.PlacedWordRunsNext : Prop :=
  ∀ (s : State) (i : Instr), s.mem.wf → i.wellFormed = true →
    step (s.withFetchWord 16 (encode i).toNat) = exec i (s.withFetchWord 16 (encode i).toNat)

/-! ## The whole machine -/

/-- Every event of the machine has an outcome that is a next state: no state stops it (D00's faults are states, R205;
log 9). -/
def Obligations.StepAlwaysAnswersNext : Prop := ∀ s : State, ∃ t, step s = .next t

/-- The state after reset meets the invariant of R39. -/
def Obligations.ResetMeetsInvariant : Prop := State.reset.Inv

/-- Every event, an engine step or a host call, keeps the invariant of R39 (with the model's own additions: memory's
canonical form, the capacity, the phases). -/
def Obligations.StepKeepsInvariant : Prop := ∀ s t : State, s.Inv → step s = .next t → t.Inv

/-- A successful initialisation, with any admitted parameters, any ROM and either `COMPAT`, meets the invariant. -/
def Obligations.InitMeetsInvariant : Prop :=
  ∀ (p : Params) (rom : List Byte) (c : Compat) (s : State), p.wf → initMachine p rom c = .ok s → s.Inv

/-- R206: FAULTED is terminal. No instruction and no host operation restores RUNNING, and no second fault occurs: the
fault reason stays, and so do pc, I, the stack, memory and the pixels. -/
def Obligations.FaultedIsTerminal : Prop :=
  ∀ s t : State, s.engineState = .faulted → step s = .next t →
    t.engineState = .faulted ∧ t.faultReason = s.faultReason ∧ t.pc = s.pc ∧ t.i = s.i ∧ t.sp = s.sp ∧
    t.stack = s.stack ∧ t.mem = s.mem ∧ t.fb = s.fb

/-- The fault an instruction raises and exactly when: the table of R201, rows 3 to 7. -/
def faultOfTable (i : Instr) (s : State) : Option Fault :=
  match i with
  | .ldB _ => if s.i.toNat + 2 > 0xFFF then some (.memOutOfRange (s.i.toNat + 2)) else none
  | .storeRegs x | .loadRegs x =>
    if s.i.toNat + x.val + 1 > 0xFFF then some (.memOutOfRange (s.i.toNat + x.val + 1)) else none
  | .drw _ _ n =>
    if n > 0 ∧ s.i.toNat + n - 1 > 0xFFF then some (.memOutOfRange (s.i.toNat + n - 1)) else none
  | .call _ => if s.sp.toNat = s.stackCap then some .stackOverflow else none
  | .ret => if s.sp.toNat = 0 then some .stackUnderflow else none
  | .skp x | .sknp x => if (s.reg x).toNat > 15 then some (.keyIndexOutOfRange (s.reg x)) else none
  | .ldF x => if (s.reg x).toNat > 15 then some (.fontIndexOutOfRange (s.reg x)) else none
  | _ => none

/-- An instruction faults exactly when R201's table says, with that fault and its information, and a fault changes
nothing but the engine state and the fault reason (R205). No other instruction faults. sp is at most `STACK_CAP`
(`State.Inv`). Names and information are decision D25, the precision is D6. -/
def Obligations.FaultsExactlyAsTabled : Prop :=
  ∀ (i : Instr) (s : State), s.engineState = .running → s.sp.toNat ≤ s.stackCap → ∃ t, exec i s = .next t ∧
    (t.engineState = .faulted ↔ (faultOfTable i s).isSome = true) ∧
    ∀ f, faultOfTable i s = some f → t = { s with engineState := .faulted, faultReason := some f }

/-- The engine state a `step()` leads to: the table of R200. -/
def engineStateOfTable (s : State) : EngineState :=
  match s.engineState with
  | .faulted => .faulted
  | .awaitingKey => if s.latchWaiting then .awaitingKey else .running
  | .running =>
    if s.pc.toNat > 0xFFE ∨ s.pc.toNat % 2 = 1 then .faulted
    else match decodeWord (fetchWord s) with
      | none => .running
      | some (.ldVxK _) => .awaitingKey
      | some i => if (faultOfTable i s).isSome then .faulted else .running

/-- The engine's transitions on `step()` are those of the table of R200 (decision D22 for the wait's end); sp is at most
`STACK_CAP` (`State.Inv`). The other host operations never change the engine state. -/
def Obligations.EngineTransitionTable : Prop :=
  ∀ s : State,
    (s.hostCalls = [] → s.sp.toNat ≤ s.stackCap → ∃ t, step s = .next t ∧ t.engineState = engineStateOfTable s) ∧
    (∀ e, (tick e s).engineState = s.engineState) ∧ (∀ k p, (setKey k p s).engineState = s.engineState) ∧
    (readFramebuffer s).2.engineState = s.engineState

/-- pc after an instruction that does not fault: the table of R96, with what it takes from elsewhere: the comparisons and
key tests of the skips and the targets of the jumps (R111, R113 to R117, R160, R161: general knowledge, D9, log 13),
RET's entry, which holds the address after the call (R110, decision D3, log 13), and 0 for an entry the stack does not
have (log 2). -/
def pcOfTable (i : Instr) (s : State) : Word :=
  match i with
  | .jp nnn | .call nnn => BitVec.ofNat 16 nnn.toNat
  | .jpV0 nnn => BitVec.ofNat 16 (nnn.toNat + (s.reg 0).toNat)
  | .ret => (s.stack[s.sp.toNat - 1]?).getD 0
  | .seImm x nn => if s.reg x = nn then s.pc + 4 else s.pc + 2
  | .sneImm x nn => if s.reg x ≠ nn then s.pc + 4 else s.pc + 2
  | .seReg x y => if s.reg x = s.reg y then s.pc + 4 else s.pc + 2
  | .sneReg x y => if s.reg x ≠ s.reg y then s.pc + 4 else s.pc + 2
  | .skp x => if (s.keys[(s.reg x).toNat]?).getD false = true then s.pc + 4 else s.pc + 2
  | .sknp x => if (s.keys[(s.reg x).toNat]?).getD false = true then s.pc + 2 else s.pc + 4
  | .ldVxK _ => s.pc
  | _ => s.pc + 2

/-- How every instruction moves pc, by the table of R96 as `pcOfTable` completes it (general knowledge D9, decision D3,
logs 2 and 13); that a fault leaves pc at the faulting instruction (decision D6); that the completing step of a key wait
adds 2 (decision D22); and that an unrecognised word adds 2 (R97). -/
def Obligations.PcAdvanceTable : Prop :=
  (∀ (i : Instr) (s : State), s.engineState = .running → ∃ t, exec i s = .next t ∧
    t.pc = if t.engineState = .faulted then s.pc else pcOfTable i s) ∧
  (∀ s : State, s.hostCalls = [] → s.engineState = .awaitingKey → s.latchWaiting = false →
    ∃ t, step s = .next t ∧ t.pc = s.pc + 2) ∧
  (∀ s : State, s.hostCalls = [] → s.engineState = .running → s.pc.toNat ≤ 0xFFE → s.pc.toNat % 2 = 0 →
    decodeWord (fetchWord s) = none → ∃ t, step s = .next t ∧ t.pc = s.pc + 2)

/-- The registers an instruction may write: VX of a register write, VF of a flag write, VY of a `legacy` shift,
V0 to VX of a block load, and none otherwise (R21, with decision D12: nothing else writes VF). -/
def regsOfInstr (i : Instr) (s : State) : List Reg :=
  match i with
  | .ldImm x _ | .addImm x _ | .ldReg x _ | .orReg x _ | .andReg x _ | .xorReg x _ | .rnd x _ | .ldVxDT x => [x]
  | .addReg x _ | .sub x _ | .subn x _ => [x, 15]
  | .shr x y | .shl x y => if s.compat = .legacy then [x, y, 15] else [x, 15]
  | .drw _ _ _ | .addI _ => [15]
  | .loadRegs x => (List.finRange 16).filter (fun k => k ≤ x)
  | _ => []

/-- No instruction changes a register outside its list. In particular VF is written only by the seven flag writers of
R21, or as an ordinary destination register (decision D12). -/
def Obligations.OnlyListedRegistersChange : Prop :=
  ∀ (i : Instr) (s t : State), exec i s = .next t → ∀ r : Reg, r ∉ regsOfInstr i s → t.reg r = s.reg r

/-- The event of the state is a `step()` of a RUNNING engine whose word at pc decodes to `i`. -/
def RunsInstr (s : State) (i : Instr) : Prop :=
  (s.hostCalls = [] ∨ ∃ rest, s.hostCalls = .step :: rest) ∧ s.engineState = .running ∧
  decodeWord (fetchWord s) = some i

/-- Main memory is written only by `LD B, Vx` and `LD [I], Vx`, and never by the host (R50, R62 (d)). -/
def Obligations.OnlyTwoInstructionsStore : Prop :=
  ∀ s t : State, step s = .next t → t.mem ≠ s.mem → ∃ x, RunsInstr s (.ldB x) ∨ RunsInstr s (.storeRegs x)

/-- The pixels are written only by `DRW` and `CLS`, which set `damaged`; `damaged` is cleared only by the host's
framebuffer read (R27, R28, R214; decisions D18, D19, D27). -/
def Obligations.ScreenWriters : Prop :=
  ∀ s t : State, step s = .next t →
    (t.fb ≠ s.fb → t.damaged = true ∧ (RunsInstr s .cls ∨ ∃ x y n, RunsInstr s (.drw x y n))) ∧
    (s.damaged = true → t.damaged = false → ∃ rest, s.hostCalls = .readFramebuffer :: rest)

/-- The stack and sp are touched only by `CALL` and `RET`, and `RET` changes no entry (R24). -/
def Obligations.OnlyCallAndRetTouchStack : Prop :=
  ∀ (i : Instr) (s t : State), exec i s = .next t →
    (t.stack ≠ s.stack → ∃ nnn, i = .call nnn) ∧ (t.sp ≠ s.sp → i = .ret ∨ ∃ nnn, i = .call nnn)

/-- The keys are written only by the host's `setKey` (R29): a step whose event is not a `setKey` leaves them. -/
def Obligations.OnlySetKeyChangesKeys : Prop :=
  ∀ s t : State, step s = .next t → t.keys ≠ s.keys → ∃ k p rest, s.hostCalls = .setKey k p :: rest

/-- What a program may rely on of the delay timer (R31, R211): no event raises DT but `LD DT, Vx`, no event takes it
down by more than 1 but that instruction, and an event that takes it down is a tick. -/
def Obligations.DelayTimerOnlyCountsDown : Prop :=
  ∀ s t : State, step s = .next t →
    (∃ x, RunsInstr s (.ldDTVx x) ∧ t.dt = s.reg x) ∨ t.dt = s.dt ∨
      (t.dt.toNat + 1 = s.dt.toNat ∧ ∃ e rest, s.hostCalls = .tick e :: rest)

/-- `COMPAT` never changes after initialisation (R34, R242). -/
def Obligations.CompatNeverChanges : Prop :=
  (∀ s t : State, step s = .next t → t.compat = s.compat) ∧
  ∀ (p : Params) (rom : List Byte) (c : Compat) (s : State), initMachine p rom c = .ok s → s.compat = c

/-- `COMPAT` affects only the two shift instructions (R34): every other instruction acts the same under both values. -/
def Obligations.CompatAffectsOnlyShifts : Prop :=
  ∀ (i : Instr) (s : State) (c : Compat), (∀ x y, i ≠ .shr x y ∧ i ≠ .shl x y) →
    ∃ t, exec i s = .next t ∧ exec i { s with compat := c } = .next { t with compat := c }

/-- No instruction reads the sound timer or `damaged` (R32, R28): from two states that differ in nothing else, an
instruction leads to two states that differ in nothing else. -/
def Obligations.SoundTimerAndDamagedAreNotRead : Prop :=
  ∀ (i : Instr) (s : State) (b : Byte) (d : Bool), ∃ t, exec i s = .next t ∧
    ∃ b' d', exec i { s with st := b, damaged := d } = .next { t with st := b', damaged := d' }

/-! ## Control transfer (spec/41_control_flow.md) -/

/-- `RET` (R110; decision D3): with sp > 0, pc takes the entry uncovered, sp goes down by one, no entry changes; with
sp = 0 it faults. The stack is not overfull (`State.Inv`). -/
def Obligations.RetPopsReturnAddress : Prop :=
  ∀ (s : State) (a : Word), (s.sp = 0 → exec .ret s = .next (s.raise .stackUnderflow)) ∧
    (s.sp ≠ 0 → s.stack[s.sp.toNat - 1]? = some a → ∃ t, exec .ret s = .next t ∧
      t.pc = a ∧ t.sp.toNat + 1 = s.sp.toNat ∧ t.stack = s.stack ∧ ChangesOnly { stack := true } s t)

/-- `JP nnn` and `JP V0, nnn` (R111, R117; general knowledge): pc takes NNN, or NNN + V0 in 16 bits with no mask. -/
def Obligations.JumpsSetPc : Prop :=
  ∀ (nnn : Addr12) (s : State),
    (∃ t, exec (.jp nnn) s = .next t ∧ t.pc.toNat = nnn.toNat ∧ ChangesOnly {} s t) ∧
    (∃ t, exec (.jpV0 nnn) s = .next t ∧ t.pc.toNat = nnn.toNat + (s.reg 0).toNat ∧ ChangesOnly {} s t)

/-- `CALL nnn` (R112; decision D3): with room on the stack, pc + 2 is pushed at `stack[sp]`, sp goes up by one, the
other entries stay, pc takes NNN; with sp = `STACK_CAP` it faults. `STACK_CAP` is at most 255 (log 2). -/
def Obligations.CallPushesReturnAddress : Prop :=
  ∀ (nnn : Addr12) (s : State), s.stackCap ≤ 255 →
    (s.sp.toNat = s.stackCap → exec (.call nnn) s = .next (s.raise .stackOverflow)) ∧
    (s.sp.toNat < s.stackCap → ∃ t, exec (.call nnn) s = .next t ∧
      t.pc.toNat = nnn.toNat ∧ t.sp.toNat = s.sp.toNat + 1 ∧ t.stack[s.sp.toNat]? = some (s.pc + 2) ∧
      (∀ k, k ≠ s.sp.toNat → t.stack[k]? = s.stack[k]?) ∧ t.stackCap = s.stackCap ∧
      ChangesOnly { stack := true } s t)

/-- `SE` and `SNE` (R113 to R116; the comparisons are general knowledge): pc + 4 when the condition on the two bytes
holds, pc + 2 otherwise, and nothing else changes. -/
def Obligations.SkipsCompare : Prop :=
  ∀ (x y : Reg) (nn : Byte) (s : State),
    (∃ t, exec (.seImm x nn) s = .next t ∧ t.pc = s.pc + (if (s.reg x).toNat = nn.toNat then 4 else 2) ∧
      ChangesOnly {} s t) ∧
    (∃ t, exec (.sneImm x nn) s = .next t ∧ t.pc = s.pc + (if (s.reg x).toNat = nn.toNat then 2 else 4) ∧
      ChangesOnly {} s t) ∧
    (∃ t, exec (.seReg x y) s = .next t ∧
      t.pc = s.pc + (if (s.reg x).toNat = (s.reg y).toNat then 4 else 2) ∧ ChangesOnly {} s t) ∧
    (∃ t, exec (.sneReg x y) s = .next t ∧
      t.pc = s.pc + (if (s.reg x).toNat = (s.reg y).toNat then 2 else 4) ∧ ChangesOnly {} s t)

/-! ## Loads, arithmetic, logic, shifts, random (spec/42_alu.md) -/

/-- `LD Vx, nn`, `ADD Vx, nn`, `LD Vx, Vy` (R120 to R122; general knowledge): VX takes the value, the sum wraps mod
256, and VF is no flag of theirs (decision D12). -/
def Obligations.LoadsAndAddImmediate : Prop :=
  ∀ (x y : Reg) (nn : Byte) (s : State),
    (∃ t, exec (.ldImm x nn) s = .next t ∧ t.reg x = nn ∧ t.pc = s.pc + 2 ∧ ChangesOnly { regs := [x] } s t) ∧
    (∃ t, exec (.addImm x nn) s = .next t ∧ (t.reg x).toNat = ((s.reg x).toNat + nn.toNat) % 256 ∧
      t.pc = s.pc + 2 ∧ ChangesOnly { regs := [x] } s t) ∧
    (∃ t, exec (.ldReg x y) s = .next t ∧ t.reg x = s.reg y ∧ t.pc = s.pc + 2 ∧ ChangesOnly { regs := [x] } s t)

/-- `OR`, `AND`, `XOR` (R123 to R125; general knowledge): bit by bit, VF unchanged unless it is VX (decision D12). -/
def Obligations.LogicIsBitwise : Prop :=
  ∀ (x y : Reg) (s : State),
    (∃ t, exec (.orReg x y) s = .next t ∧
      (∀ k, (t.reg x).getLsbD k = ((s.reg x).getLsbD k || (s.reg y).getLsbD k)) ∧
      t.pc = s.pc + 2 ∧ ChangesOnly { regs := [x] } s t) ∧
    (∃ t, exec (.andReg x y) s = .next t ∧
      (∀ k, (t.reg x).getLsbD k = ((s.reg x).getLsbD k && (s.reg y).getLsbD k)) ∧
      t.pc = s.pc + 2 ∧ ChangesOnly { regs := [x] } s t) ∧
    (∃ t, exec (.xorReg x y) s = .next t ∧
      (∀ k, (t.reg x).getLsbD k = ((s.reg x).getLsbD k ^^ (s.reg y).getLsbD k)) ∧
      t.pc = s.pc + 2 ∧ ChangesOnly { regs := [x] } s t)

/-- R126: `ADD Vx, Vy`, word 8XY4, gives (VX + VY) mod 256 and VF = 1 if the sum is above 255, else 0, written last. -/
def Obligations.AddWithCarry : Prop :=
  ∀ (x y : Reg) (s : State), (encode (.addReg x y)).toNat = 0x8004 + 0x100 * x.val + 0x10 * y.val ∧
  ∃ t, exec (.addReg x y) s = .next t ∧
    (x ≠ 15 → (t.reg x).toNat = ((s.reg x).toNat + (s.reg y).toNat) % 256) ∧
    t.reg 15 = (if (s.reg x).toNat + (s.reg y).toNat > 255 then 1 else 0) ∧
    t.pc = s.pc + 2 ∧ ChangesOnly { regs := [x, 15] } s t

/-- R127: `SUB Vx, Vy`, word 8XY5, gives (VX - VY) mod 256 and VF = 1 if VX ≥ VY, else 0, written last. -/
def Obligations.SubtractNoBorrow : Prop :=
  ∀ (x y : Reg) (s : State), (encode (.sub x y)).toNat = 0x8005 + 0x100 * x.val + 0x10 * y.val ∧
  ∃ t, exec (.sub x y) s = .next t ∧
    (x ≠ 15 → (t.reg x).toNat = ((s.reg x).toNat + 256 - (s.reg y).toNat) % 256) ∧
    t.reg 15 = (if (s.reg x).toNat ≥ (s.reg y).toNat then 1 else 0) ∧
    t.pc = s.pc + 2 ∧ ChangesOnly { regs := [x, 15] } s t

/-- R129: `SUBN Vx, Vy`, word 8XY7, gives (VY - VX) mod 256 and VF = 1 if VY ≥ VX, else 0, written last; VY is not modified unless
it is VX or VF. -/
def Obligations.ReverseSubtractNoBorrow : Prop :=
  ∀ (x y : Reg) (s : State), (encode (.subn x y)).toNat = 0x8007 + 0x100 * x.val + 0x10 * y.val ∧
  ∃ t, exec (.subn x y) s = .next t ∧
    (x ≠ 15 → (t.reg x).toNat = ((s.reg y).toNat + 256 - (s.reg x).toNat) % 256) ∧
    t.reg 15 = (if (s.reg y).toNat ≥ (s.reg x).toNat then 1 else 0) ∧
    t.pc = s.pc + 2 ∧ ChangesOnly { regs := [x, 15] } s t

/-- R128: `SHR Vx, Vy`, word 8XY6. In `modern` VX is shifted in place and VF receives the bit shifted out of VX; in `legacy` VY is
shifted, itself changed, and the result copied into VX, and VF receives the bit shifted out of VY. The shift is logical,
by one. VF is written last. -/
def Obligations.ShiftRightInBothModes : Prop :=
  ∀ (x y : Reg) (s : State), (encode (.shr x y)).toNat = 0x8006 + 0x100 * x.val + 0x10 * y.val ∧
  ∃ t, exec (.shr x y) s = .next t ∧ t.pc = s.pc + 2 ∧
    (s.compat = .modern →
      (x ≠ 15 → (t.reg x).toNat = (s.reg x).toNat / 2) ∧
      (t.reg 15).toNat = (s.reg x).toNat % 2 ∧ ChangesOnly { regs := [x, 15] } s t) ∧
    (s.compat = .legacy →
      (x ≠ 15 → (t.reg x).toNat = (s.reg y).toNat / 2) ∧ (y ≠ 15 → (t.reg y).toNat = (s.reg y).toNat / 2) ∧
      (t.reg 15).toNat = (s.reg y).toNat % 2 ∧ ChangesOnly { regs := [x, y, 15] } s t)

/-- `SHL Vx, Vy` (R130; that `legacy` changes VY too is decision D33). -/
def Obligations.ShiftLeftInBothModes : Prop :=
  ∀ (x y : Reg) (s : State), ∃ t, exec (.shl x y) s = .next t ∧ t.pc = s.pc + 2 ∧
    (s.compat = .modern →
      (x ≠ 15 → (t.reg x).toNat = (s.reg x).toNat * 2 % 256) ∧
      (t.reg 15).toNat = (s.reg x).toNat / 128 ∧ ChangesOnly { regs := [x, 15] } s t) ∧
    (s.compat = .legacy →
      (x ≠ 15 → (t.reg x).toNat = (s.reg y).toNat * 2 % 256) ∧
      (y ≠ 15 → (t.reg y).toNat = (s.reg y).toNat * 2 % 256) ∧
      (t.reg 15).toNat = (s.reg y).toNat / 128 ∧ ChangesOnly { regs := [x, y, 15] } s t)

/-- `RND Vx, nn` (R131; the free draw is decision D28, log 5): VX is the draw under the mask, so it has no bit outside
NN, and the next draw is another. -/
def Obligations.RandomByteUnderMask : Prop :=
  ∀ (x : Reg) (nn : Byte) (s : State), ∃ t, exec (.rnd x nn) s = .next t ∧
    t.reg x = Config.draw8 s.draws &&& nn ∧ (∀ k, (t.reg x).getLsbD k = true → nn.getLsbD k = true) ∧
    t.draws = s.draws + 1 ∧ t.pc = s.pc + 2 ∧ ChangesOnly { regs := [x], draw := true } s t

/-! ## Index register and memory (spec/43_index_memory.md) -/

/-- `LD I, nnn` (R140; general knowledge). -/
def Obligations.LoadIndex : Prop :=
  ∀ (nnn : Addr12) (s : State), ∃ t, exec (.ldI nnn) s = .next t ∧ t.i.toNat = nnn.toNat ∧ t.pc = s.pc + 2 ∧
    ChangesOnly { index := true } s t

/-- `ADD I, Vx` (R141; 12 bits is decision D8): I takes the sum mod 0x1000, VF is 1 when the sum passes 0xFFF, else 0. -/
def Obligations.AddToIndexWithOverflow : Prop :=
  ∀ (x : Reg) (s : State), ∃ t, exec (.addI x) s = .next t ∧
    t.i.toNat = (s.i.toNat + (s.reg x).toNat) % 0x1000 ∧
    t.reg 15 = (if s.i.toNat + (s.reg x).toNat > 0xFFF then 1 else 0) ∧ t.pc = s.pc + 2 ∧
    ChangesOnly { regs := [15], index := true } s t

/-- `LD F, Vx` (R142; general knowledge, the fault is decision D14): I takes 5 * VX for a digit 0 to 15; above 15 it
faults. -/
def Obligations.FontAddress : Prop :=
  ∀ (x : Reg) (s : State),
    ((s.reg x).toNat ≤ 15 → ∃ t, exec (.ldF x) s = .next t ∧ t.i.toNat = 5 * (s.reg x).toNat ∧ t.pc = s.pc + 2 ∧
      ChangesOnly { index := true } s t) ∧
    (15 < (s.reg x).toNat → exec (.ldF x) s = .next (s.raise (.fontIndexOutOfRange (s.reg x))))

/-- R143: `LD B, Vx`, word FX33, stores the hundreds, tens and ones digits of VX at I, I + 1, I + 2 when they are all in range, and
changes no other byte, no register and not I; else it faults and stores nothing. -/
def Obligations.BcdStore : Prop :=
  ∀ (x : Reg) (s : State), s.mem.wf → (encode (.ldB x)).toNat = 0xF033 + 0x100 * x.val ∧
    (s.i.toNat + 2 ≤ 0xFFF → ∃ t, exec (.ldB x) s = .next t ∧
      (t.mem.get s.i.toNat).toNat = (s.reg x).toNat / 100 ∧
      (t.mem.get (s.i.toNat + 1)).toNat = (s.reg x).toNat / 10 % 10 ∧
      (t.mem.get (s.i.toNat + 2)).toNat = (s.reg x).toNat % 10 ∧ t.pc = s.pc + 2 ∧
      ChangesOnly { stored := [s.i.toNat, s.i.toNat + 1, s.i.toNat + 2] } s t) ∧
    (0xFFF < s.i.toNat + 2 → exec (.ldB x) s = .next (s.raise (.memOutOfRange (s.i.toNat + 2))))

/-- `LD [I], Vx` (R144; the literal bound is decision D7): V[k] is stored at I + k for k in 0 .. X, I advances by
X + 1, no register and no other byte changes; above the bound it faults and stores nothing. -/
def Obligations.BlockStore : Prop :=
  ∀ (x : Reg) (s : State), s.mem.wf →
    (s.i.toNat + x.val + 1 ≤ 0xFFF → ∃ t, exec (.storeRegs x) s = .next t ∧
      (∀ k : Reg, k ≤ x → t.mem.get (s.i.toNat + k.val) = s.reg k) ∧
      t.i.toNat = s.i.toNat + x.val + 1 ∧ t.pc = s.pc + 2 ∧
      ChangesOnly { stored := List.range' s.i.toNat (x.val + 1), index := true } s t) ∧
    (0xFFF < s.i.toNat + x.val + 1 →
      exec (.storeRegs x) s = .next (s.raise (.memOutOfRange (s.i.toNat + x.val + 1))))

/-- `LD Vx, [I]` (R145; the literal bound is decision D7): V[k] takes the byte at I + k for k in 0 .. X, the registers
above X stay, I advances by X + 1, memory is not changed; above the bound it faults and loads nothing. -/
def Obligations.BlockLoad : Prop :=
  ∀ (x : Reg) (s : State),
    (s.i.toNat + x.val + 1 ≤ 0xFFF → ∃ t, exec (.loadRegs x) s = .next t ∧
      (∀ k : Reg, k ≤ x → t.reg k = s.mem.get (s.i.toNat + k.val)) ∧
      t.i.toNat = s.i.toNat + x.val + 1 ∧ t.pc = s.pc + 2 ∧
      ChangesOnly { regs := (List.finRange 16).filter (fun k => k ≤ x), index := true } s t) ∧
    (0xFFF < s.i.toNat + x.val + 1 →
      exec (.loadRegs x) s = .next (s.raise (.memOutOfRange (s.i.toNat + x.val + 1))))

/-! ## Display (spec/44_display.md) -/

/-- `CLS` (R150; general knowledge): every pixel 0 and `damaged` set (decision D19). -/
def Obligations.ClearScreen : Prop :=
  ∀ s : State, ∃ t, exec .cls s = .next t ∧ (∀ x y, Framebuffer.pixel t.fb x y = false) ∧ t.damaged = true ∧
    t.pc = s.pc + 2 ∧ ChangesOnly { screen := true } s t

/-- The sprite of `n` rows at I, drawn at (VX, VY), has its bit set for the pixel (px, py): bit 7 of a row byte is the
leftmost pixel (R152, decision D16). -/
def spriteBit (s : State) (x y : Reg) (n px py : Nat) : Prop :=
  (s.reg x).toNat ≤ px ∧ px < (s.reg x).toNat + 8 ∧ (s.reg y).toNat ≤ py ∧ py < (s.reg y).toNat + n ∧
  (s.mem.get (s.i.toNat + (py - (s.reg y).toNat))).getLsbD (7 - (px - (s.reg x).toNat)) = true

/-- `DRW Vx, Vy, n` (R151, R152; decisions D16 to D18): every pixel of the grid is XORed with the sprite's bit for it,
pixels off the grid are dropped, VF is 1 exactly when a set pixel was unset, `damaged` is set, I stays; a sprite row
above 0xFFF faults and changes nothing. -/
def Obligations.DrawXorsSprite : Prop :=
  ∀ (x y : Reg) (n : Nat) (s : State),
    ((0 < n → s.i.toNat + n - 1 ≤ 0xFFF) → ∃ t, exec (.drw x y n) s = .next t ∧
      (∀ px py, px ≤ 63 → py ≤ 31 → (Framebuffer.pixel t.fb px py = true ↔
        ¬ (Framebuffer.pixel s.fb px py = true ↔ spriteBit s x y n px py))) ∧
      ((t.reg 15 = 1 ∧ ∃ px py, px ≤ 63 ∧ py ≤ 31 ∧ Framebuffer.pixel s.fb px py = true ∧ spriteBit s x y n px py) ∨
       (t.reg 15 = 0 ∧ ∀ px py, px ≤ 63 → py ≤ 31 →
         ¬ (Framebuffer.pixel s.fb px py = true ∧ spriteBit s x y n px py))) ∧
      t.damaged = true ∧ t.pc = s.pc + 2 ∧ ChangesOnly { regs := [15], screen := true } s t) ∧
    (0 < n → 0xFFF < s.i.toNat + n - 1 →
      exec (.drw x y n) s = .next (s.raise (.memOutOfRange (s.i.toNat + n - 1))))

/-- Drawing the same sprite twice at the same position restores the framebuffer (R151 (j), S4), for coordinates held in
registers other than VF; the second draw reports a collision exactly when some sprite bit fell on a pixel of the grid
that was unset before the first (conflict C15). -/
def Obligations.DrawTwiceRestoresScreen : Prop :=
  ∀ (x y : Reg) (n : Nat) (s t u : State), x ≠ 15 → y ≠ 15 → s.engineState = .running →
    exec (.drw x y n) s = .next t → t.engineState = .running → exec (.drw x y n) t = .next u →
    u.fb = s.fb ∧ (u.reg 15 = 1 ↔ ∃ px py, px ≤ 63 ∧ py ≤ 31 ∧ spriteBit s x y n px py ∧
      Framebuffer.pixel s.fb px py = false)

/-! ## Keys and timers (spec/45_input_timers.md, spec/60_exceptions.md) -/

/-- `SKP` and `SKNP` (R160, R161; general knowledge, the fault is decision D13): a skip on the level of the key numbered
VX; above 15 they fault. -/
def Obligations.KeySkips : Prop :=
  ∀ (x : Reg) (s : State),
    (∀ k : Fin 16, (s.reg x).toNat = k.val →
      (∃ t, exec (.skp x) s = .next t ∧ t.pc = s.pc + (if s.keys[k.val] = true then 4 else 2) ∧
        ChangesOnly {} s t) ∧
      (∃ t, exec (.sknp x) s = .next t ∧ t.pc = s.pc + (if s.keys[k.val] = true then 2 else 4) ∧
        ChangesOnly {} s t)) ∧
    (15 < (s.reg x).toNat →
      exec (.skp x) s = .next (s.raise (.keyIndexOutOfRange (s.reg x))) ∧
      exec (.sknp x) s = .next (s.raise (.keyIndexOutOfRange (s.reg x))))

/-- `LD Vx, K`, part 1 (R162): the latch waits for register X, the engine is AWAITING_KEY, pc and all else unchanged. -/
def Obligations.KeyWaitBegins : Prop :=
  ∀ (x : Reg) (s : State), ∃ t, exec (.ldVxK x) s = .next t ∧ t.latchWaiting = true ∧ t.latchTarget = x ∧
    t.engineState = .awaitingKey ∧ t.pc = s.pc ∧ ChangesOnly { latch := true } s t

/-- `LD Vx, DT`, `LD DT, Vx`, `LD ST, Vx` (R163 to R165; general knowledge): the value is moved, the phases stay
(decision D23) and no event is emitted (decision D29). -/
def Obligations.TimerMoves : Prop :=
  ∀ (x : Reg) (s : State),
    (∃ t, exec (.ldVxDT x) s = .next t ∧ t.reg x = s.dt ∧ t.pc = s.pc + 2 ∧ ChangesOnly { regs := [x] } s t) ∧
    (∃ t, exec (.ldDTVx x) s = .next t ∧ t.dt = s.reg x ∧ t.pc = s.pc + 2 ∧ ChangesOnly { dt := true } s t) ∧
    (∃ t, exec (.ldSTVx x) s = .next t ∧ t.st = s.reg x ∧ t.pc = s.pc + 2 ∧ ChangesOnly { st := true } s t)

/-- `tick(elapsed)` (R210; decisions D23, D35): a negative time changes nothing; else each phase takes the time up, and
one that reaches 1/60 second is reset to 0 with one decrement of its timer, saturating at 0. The sound timer's decrement
from 1 to 0 emits `stop_tone`, and nothing else does (R212, decision D29). -/
def Obligations.TickCountsDown : Prop :=
  ∀ (e : Rat) (s : State),
    (e < 0 → tick e s = s) ∧
    (0 ≤ e → tick e s = { s with
      dtPhase := if 1 / 60 ≤ s.dtPhase + e then 0 else s.dtPhase + e
      dt := if 1 / 60 ≤ s.dtPhase + e then BitVec.ofNat 8 (s.dt.toNat - 1) else s.dt
      stPhase := if 1 / 60 ≤ s.stPhase + e then 0 else s.stPhase + e
      st := if 1 / 60 ≤ s.stPhase + e then BitVec.ofNat 8 (s.st.toNat - 1) else s.st
      outputs := if 1 / 60 ≤ s.stPhase + e ∧ s.st = 1 then .stopTone :: s.outputs else s.outputs })

/-- R211, the spec's own inference: but for the phases, every tick is one of the behaviours of the untimed view: nothing,
`DelayTick`, `SoundTick`, or both. -/
def Obligations.TickRefinesUntimedView : Prop :=
  ∀ (e : Rat) (s : State), ∃ t ∈ [s, delayTick s, soundTick s, soundTick (delayTick s)],
    { tick e s with dtPhase := 0, stPhase := 0 } = { t with dtPhase := 0, stPhase := 0 }

/-- Many ticks within one period give one decrement (S8): if no shorter sum of the elapsed times reaches 1/60 second and
the whole sum does, the delay timer has counted down by one, whatever the number of calls. -/
def Obligations.TicksOfOnePeriodDecrementOnce : Prop :=
  ∀ (es : List Rat) (e : Rat) (s : State), s.dtPhase = 0 → (∀ x ∈ es, 0 ≤ x) → 0 ≤ e →
    es.sum < 1 / 60 → 1 / 60 ≤ es.sum + e →
    (tick e (es.foldl (fun u x => tick x u) s)).dt.toNat = s.dt.toNat - 1 ∧
    (es.foldl (fun u x => tick x u) s).dt = s.dt

/-- `setKey(index, pressed)` (R213; the same in every engine state, decision D24): an index outside 0 to 15 is ignored;
else the key takes its level, and a press edge while the latch waits writes the index to the target register and ends
the wait; nothing else changes. -/
def Obligations.SetKeyFulfilsWaitOnEdge : Prop :=
  ∀ (k : Int) (p : Bool) (s : State),
    (k < 0 ∨ 15 < k → setKey k p s = s) ∧
    ∀ j : Fin 16, k = (j.val : Int) →
      (s.latchWaiting = true ∧ s.keys[j.val] = false ∧ p = true →
        setKey k p s = { s with
          keys := s.keys.set j.val true, v := s.v.set s.latchTarget.val (BitVec.ofNat 8 j.val), latchWaiting := false }) ∧
      (¬ (s.latchWaiting = true ∧ s.keys[j.val] = false ∧ p = true) →
        setKey k p s = { s with keys := s.keys.set j.val p })

/-- The key wait from beginning to end (R162, S7; decision D22): at FX0A the machine waits, any number of steps later
nothing has changed, a press edge of key j writes VX = j, and the next step leaves it RUNNING with pc advanced by 2. -/
def Obligations.KeyWaitProtocol : Prop :=
  ∀ (s : State) (x : Reg) (j : Fin 16) (n : Nat),
    s.hostCalls = List.replicate (n + 1) .step ++ [.setKey j.val true, .step] →
    s.engineState = .running → s.pc.toNat ≤ 0xFFE → s.pc.toNat % 2 = 0 →
    decodeWord (fetchWord s) = some (.ldVxK x) → s.keys[j.val] = false →
    ∃ t u : State, Host.Core.run Sys2Proof.core (n + 1) s = .next t ∧ Host.Core.run Sys2Proof.core (n + 3) s = .next u ∧
      t.engineState = .awaitingKey ∧ t.pc = s.pc ∧ t.v = s.v ∧
      u.engineState = .running ∧ u.pc = s.pc + 2 ∧ (u.reg x).toNat = j.val ∧ u.latchWaiting = false ∧
      (∀ r : Reg, r ≠ x → u.reg r = s.reg r) ∧ u.mem = s.mem ∧ u.i = s.i

/-! ## Initialisation (spec/20_memory.md R67, spec/70_reset_and_hazards.md R240) -/

/-- Initialisation (R240, R67; decisions D20, D21, D23 for the values D00 does not list): a ROM longer than 3584 bytes is
rejected; else memory holds the font, the ROM at 0x200 and zero elsewhere, and everything else is as R40 says. -/
def Obligations.InitialisedState : Prop :=
  ∀ (p : Params) (rom : List Byte) (c : Compat), p.wf →
    (3584 < rom.length → initMachine p rom c = .error (.romTooLarge rom.length)) ∧
    (rom.length ≤ 3584 → ∃ s, initMachine p rom c = .ok s ∧
      (∀ k, k < 80 → some (s.mem.get k) = p.font[k]?) ∧
      (∀ k, k < rom.length → some (s.mem.get (0x200 + k)) = rom[k]?) ∧
      (∀ a, (80 ≤ a ∧ a < 0x200) ∨ (0x200 + rom.length ≤ a ∧ a ≤ 0xFFF) → s.mem.get a = 0) ∧
      (∀ r : Reg, s.reg r = 0) ∧ s.i = 0 ∧ s.pc = 0x200 ∧ s.sp = 0 ∧
      s.stack = List.replicate p.stackCap 0 ∧ s.dt = 0 ∧ s.st = 0 ∧ s.dtPhase = 0 ∧ s.stPhase = 0 ∧
      (∀ x y, Framebuffer.pixel s.fb x y = false) ∧ s.damaged = false ∧ (∀ k : Fin 16, s.keys[k.val] = false) ∧
      s.latchWaiting = false ∧ s.latchTarget = 0 ∧ s.compat = c ∧ s.engineState = .running ∧ s.faultReason = none)
end

