-- ==== Sys2Proof/Laws/Decode.lean ====
section
/-! SUPPORT. The fields of packed words, the words of unpacked fields, and the register fields: what the round trips
of decoding and encoding rest on. -/

namespace Sys2Proof

/-! ### Packed words as numbers -/

theorem toNat_packNNN (f : BitVec 4) (nnn : Addr12) : (packNNN f nnn).toNat = f.toNat * 0x1000 + nnn.toNat := by
  have h := BitVec.toNat_append f nnn
  rw [← Nat.shiftLeft_add_eq_or_of_lt nnn.isLt, Nat.shiftLeft_eq] at h
  exact h

theorem toNat_packXNN (f x : BitVec 4) (nn : Byte) :
    (packXNN f x nn).toNat = f.toNat * 0x1000 + x.toNat * 0x100 + nn.toNat := by
  have h := BitVec.toNat_append (f ++ x) nn
  have h' := BitVec.toNat_append f x
  rw [← Nat.shiftLeft_add_eq_or_of_lt nn.isLt, Nat.shiftLeft_eq] at h
  rw [← Nat.shiftLeft_add_eq_or_of_lt x.isLt, Nat.shiftLeft_eq] at h'
  rw [h'] at h
  exact h.trans (by omega)

theorem toNat_packXYN (f x y n : BitVec 4) :
    (packXYN f x y n).toNat = f.toNat * 0x1000 + x.toNat * 0x100 + y.toNat * 0x10 + n.toNat := by
  have h := BitVec.toNat_append (f ++ x ++ y) n
  have h' := BitVec.toNat_append (f ++ x) y
  have h'' := BitVec.toNat_append f x
  rw [← Nat.shiftLeft_add_eq_or_of_lt n.isLt, Nat.shiftLeft_eq] at h
  rw [← Nat.shiftLeft_add_eq_or_of_lt y.isLt, Nat.shiftLeft_eq] at h'
  rw [← Nat.shiftLeft_add_eq_or_of_lt x.isLt, Nat.shiftLeft_eq] at h''
  rw [h', h''] at h
  exact h.trans (by omega)

theorem toNat_wordOfBytes (hi lo : Byte) : (wordOfBytes hi lo).toNat = hi.toNat * 0x100 + lo.toNat := by
  have h := BitVec.toNat_append hi lo
  rw [← Nat.shiftLeft_add_eq_or_of_lt lo.isLt, Nat.shiftLeft_eq] at h
  exact h

/-! ### Fields as numbers -/

theorem toNat_fieldF (w : Word) : (fieldF w).toNat = w.toNat / 0x1000 % 16 := by
  simp [fieldF, Nat.shiftRight_eq_div_pow]

theorem toNat_fieldX (w : Word) : (fieldX w).toNat = w.toNat / 0x100 % 16 := by
  simp [fieldX, Nat.shiftRight_eq_div_pow]

theorem toNat_fieldY (w : Word) : (fieldY w).toNat = w.toNat / 0x10 % 16 := by
  simp [fieldY, Nat.shiftRight_eq_div_pow]

theorem toNat_fieldN (w : Word) : (fieldN w).toNat = w.toNat % 16 := by simp [fieldN]

theorem toNat_fieldNN (w : Word) : (fieldNN w).toNat = w.toNat % 256 := by simp [fieldNN]

theorem toNat_fieldNNN (w : Word) : (fieldNNN w).toNat = w.toNat % 4096 := by simp [fieldNNN]

theorem toNat_highByte (w : Word) : (highByte w).toNat = w.toNat / 0x100 := by
  have := w.isLt
  simp [highByte, Nat.shiftRight_eq_div_pow]; omega

theorem toNat_lowByte (w : Word) : (lowByte w).toNat = w.toNat % 256 := by simp [lowByte]

/-! ### Fields of packed words -/

section
variable (f x y n : BitVec 4) (nn : Byte) (nnn : Addr12)

@[simp] theorem fieldF_packNNN : fieldF (packNNN f nnn) = f := by
  have := f.isLt; have := nnn.isLt
  apply BitVec.eq_of_toNat_eq; rw [toNat_fieldF, toNat_packNNN]; omega

@[simp] theorem fieldNNN_packNNN : fieldNNN (packNNN f nnn) = nnn := by
  have := f.isLt; have := nnn.isLt
  apply BitVec.eq_of_toNat_eq; rw [toNat_fieldNNN, toNat_packNNN]; omega

@[simp] theorem fieldF_packXNN : fieldF (packXNN f x nn) = f := by
  have := f.isLt; have := x.isLt; have := nn.isLt
  apply BitVec.eq_of_toNat_eq; rw [toNat_fieldF, toNat_packXNN]; omega

@[simp] theorem fieldX_packXNN : fieldX (packXNN f x nn) = x := by
  have := f.isLt; have := x.isLt; have := nn.isLt
  apply BitVec.eq_of_toNat_eq; rw [toNat_fieldX, toNat_packXNN]; omega

@[simp] theorem fieldNN_packXNN : fieldNN (packXNN f x nn) = nn := by
  have := f.isLt; have := x.isLt; have := nn.isLt
  apply BitVec.eq_of_toNat_eq; rw [toNat_fieldNN, toNat_packXNN]; omega

@[simp] theorem fieldF_packXYN : fieldF (packXYN f x y n) = f := by
  have := f.isLt; have := x.isLt; have := y.isLt; have := n.isLt
  apply BitVec.eq_of_toNat_eq; rw [toNat_fieldF, toNat_packXYN]; omega

@[simp] theorem fieldX_packXYN : fieldX (packXYN f x y n) = x := by
  have := f.isLt; have := x.isLt; have := y.isLt; have := n.isLt
  apply BitVec.eq_of_toNat_eq; rw [toNat_fieldX, toNat_packXYN]; omega

@[simp] theorem fieldY_packXYN : fieldY (packXYN f x y n) = y := by
  have := f.isLt; have := x.isLt; have := y.isLt; have := n.isLt
  apply BitVec.eq_of_toNat_eq; rw [toNat_fieldY, toNat_packXYN]; omega

@[simp] theorem fieldN_packXYN : fieldN (packXYN f x y n) = n := by
  have := f.isLt; have := x.isLt; have := y.isLt; have := n.isLt
  apply BitVec.eq_of_toNat_eq; rw [toNat_fieldN, toNat_packXYN]; omega

end

/-! ### Words packed from their own fields -/

@[simp] theorem packNNN_fields (w : Word) : packNNN (fieldF w) (fieldNNN w) = w := by
  have := w.isLt
  apply BitVec.eq_of_toNat_eq; rw [toNat_packNNN, toNat_fieldF, toNat_fieldNNN]; omega

@[simp] theorem packXNN_fields (w : Word) : packXNN (fieldF w) (fieldX w) (fieldNN w) = w := by
  have := w.isLt
  apply BitVec.eq_of_toNat_eq; rw [toNat_packXNN, toNat_fieldF, toNat_fieldX, toNat_fieldNN]; omega

@[simp] theorem packXYN_fields (w : Word) : packXYN (fieldF w) (fieldX w) (fieldY w) (fieldN w) = w := by
  have := w.isLt
  apply BitVec.eq_of_toNat_eq; rw [toNat_packXYN, toNat_fieldF, toNat_fieldX, toNat_fieldY, toNat_fieldN]; omega

@[simp] theorem wordOfBytes_bytes (w : Word) : wordOfBytes (highByte w) (lowByte w) = w := by
  have := w.isLt
  apply BitVec.eq_of_toNat_eq; rw [toNat_wordOfBytes, toNat_highByte, toNat_lowByte]; omega

@[simp] theorem highByte_wordOfBytes (hi lo : Byte) : highByte (wordOfBytes hi lo) = hi := by
  have := hi.isLt; have := lo.isLt
  apply BitVec.eq_of_toNat_eq; rw [toNat_highByte, toNat_wordOfBytes]; omega

@[simp] theorem lowByte_wordOfBytes (hi lo : Byte) : lowByte (wordOfBytes hi lo) = lo := by
  have := hi.isLt; have := lo.isLt
  apply BitVec.eq_of_toNat_eq; rw [toNat_lowByte, toNat_wordOfBytes]; omega

@[simp] theorem regOf_regField (r : Reg) : regOf (regField r) = r := rfl

@[simp] theorem regField_regOf (f : BitVec 4) : regField (regOf f) = f := rfl

/-! ### The decoder on bytes -/

theorem decode_pair (hi lo : Byte) (rest : List Byte) :
    decode (hi :: lo :: rest) = match decodeWord (wordOfBytes hi lo) with
      | some i => .ok (i, rest)
      | none => .error (.unrecognised (wordOfBytes hi lo)) := rfl

/-- The table's word of 16 bits is the word itself. -/
theorem tableWord_toNat (w : Word) : tableWord 16 w.toNat = w := by
  have := w.isLt
  apply BitVec.eq_of_toNat_eq; simp only [tableWord, BitVec.toNat_ofNat]; omega

theorem decodeTableWord_eq (nbits w : Nat) : decodeTableWord nbits w = decodeWord (tableWord nbits w) := by
  simp only [decodeTableWord, decode_pair, wordOfBytes_bytes]
  cases decodeWord (tableWord nbits w) <;> rfl

end Sys2Proof
end

