-- ==== Sys2Proof/Laws/Memory.lean ====
section
/-! SUPPORT. The laws of main memory: a read after a write, the canonical form kept by every write, equal reads give
equal memories. -/

namespace Sys2Proof.Machine

/-! ### Listed bytes -/

@[simp] theorem Memory.lookup_nil (a : Nat) : Memory.lookup [] a = none := rfl

theorem Memory.lookup_cons (k : Nat) (c : Byte) (m : Memory) (a : Nat) :
    Memory.lookup ((k, c) :: m) a = if k = a then some c else Memory.lookup m a := rfl

/-- An address below every listed one, or simply absent, is not listed. -/
theorem Memory.lookup_eq_none {m : Memory} {a : Nat} (h : ∀ p ∈ m, p.1 ≠ a) : m.lookup a = none := by
  induction m with
  | nil => rfl
  | cons p m ih =>
    obtain ⟨k, c⟩ := p
    have hk : k ≠ a := h (k, c) (by simp)
    simp [Memory.lookup_cons, hk, ih fun q hq => h q (by simp [hq])]

/-- A listed byte stands in the list. -/
theorem Memory.mem_of_lookup {m : Memory} {a : Nat} {b : Byte} (h : m.lookup a = some b) : (a, b) ∈ m := by
  induction m with
  | nil => simp at h
  | cons p m ih =>
    obtain ⟨k, c⟩ := p
    rw [Memory.lookup_cons] at h
    split at h
    · next hk => simp_all
    · exact List.mem_cons_of_mem _ (ih h)

/-- Where the list's addresses rise strictly, what stands in it is what is listed. -/
theorem Memory.lookup_of_mem {m : Memory} {a : Nat} {b : Byte} (hs : m.Pairwise fun p q => p.1 < q.1)
    (h : (a, b) ∈ m) : m.lookup a = some b := by
  induction m with
  | nil => simp at h
  | cons p m ih =>
    obtain ⟨k, c⟩ := p
    rw [List.pairwise_cons] at hs
    rw [Memory.lookup_cons]
    rcases List.mem_cons.1 h with h | h
    · simp_all
    · have : k < a := hs.1 _ h
      simp [Nat.ne_of_lt this, ih hs.2 h]

/-! ### Reads -/

theorem Memory.get_nil (a : Nat) : Memory.get [] a = Memory.unlisted a := rfl

theorem Memory.get_cons (k : Nat) (c : Byte) (m : Memory) (a : Nat) :
    Memory.get ((k, c) :: m) a = if k = a then c else m.get a := by
  simp only [Memory.get, Memory.lookup_cons]; split <;> rfl

theorem Memory.get_eq_unlisted {m : Memory} {a : Nat} (h : ∀ p ∈ m, p.1 ≠ a) : m.get a = Memory.unlisted a := by
  simp [Memory.get, Memory.lookup_eq_none h]

/-- A cell put in front of a memory changes the read of its own address only. -/
theorem Memory.get_cell_other {a a' : Nat} (h : a' ≠ a) (b : Byte) (m : Memory) :
    (Memory.cell a b m).get a' = m.get a' := by
  unfold Memory.cell; split
  · rfl
  · simp [Memory.get_cons, h.symm]

/-- A cell put in front of a memory that does not list its address gives the read of that address. -/
theorem Memory.get_cell_same {a : Nat} (b : Byte) {m : Memory} (h : ∀ p ∈ m, p.1 ≠ a) :
    (Memory.cell a b m).get a = b := by
  unfold Memory.cell; split
  · next hb => rw [Memory.get_eq_unlisted h, hb]
  · simp [Memory.get_cons]

/-- A write leaves every other address alone, in every memory. -/
theorem Memory.get_put_other (m : Memory) {a a' : Nat} (h : a' ≠ a) (b : Byte) : (m.put a b).get a' = m.get a' := by
  induction m with
  | nil => exact Memory.get_cell_other h b []
  | cons p m ih =>
    obtain ⟨k, c⟩ := p
    simp only [Memory.put]
    split
    · simp [Memory.get_cons, ih]
    · split
      · next hk => subst hk; simp [Memory.get_cell_other h, Memory.get_cons, h.symm]
      · exact Memory.get_cell_other h b _

/-- A read after a write to the same address gives the byte written, where the addresses rise strictly. -/
theorem Memory.get_put_same {m : Memory} (hs : m.Pairwise fun p q => p.1 < q.1) (a : Nat) (b : Byte) :
    (m.put a b).get a = b := by
  induction m with
  | nil => exact Memory.get_cell_same b (by simp)
  | cons p m ih =>
    obtain ⟨k, c⟩ := p
    have hs' := List.pairwise_cons.1 hs
    simp only [Memory.put]
    split
    · next hk => simp [Memory.get_cons, Nat.ne_of_lt hk, ih hs'.2]
    · split
      · next _ hk => subst hk; exact Memory.get_cell_same b fun q hq => Nat.ne_of_gt (hs'.1 q hq)
      · refine Memory.get_cell_same b fun q hq => ?_
        rcases List.mem_cons.1 hq with rfl | hq
        · assumption
        · have := hs'.1 q hq
          dsimp only at this; omega

/-- What a write reads back everywhere. -/
theorem Memory.get_put {m : Memory} (hm : m.wf) (a a' : Nat) (b : Byte) :
    (m.put a b).get a' = if a' = a then b else m.get a' := by
  split
  · next h => subst h; exact Memory.get_put_same hm.1 a' b
  · next h => exact Memory.get_put_other m h b

/-! ### The canonical form -/

theorem Memory.wf_nil : Memory.wf [] := ⟨.nil, nofun⟩

/-- Every entry of a memory after a write is an old entry or the byte written, which then differs from what an unlisted
address reads as. -/
theorem Memory.mem_put {m : Memory} {a : Nat} {b : Byte} {p : Host.Cell} (h : p ∈ m.put a b) :
    p ∈ m ∨ (p = (a, b) ∧ b ≠ Memory.unlisted a) := by
  induction m with
  | nil =>
    simp only [Memory.put, Memory.cell] at h
    split at h
    · simp at h
    · next hb => simp only [List.mem_singleton] at h; exact .inr ⟨h, hb⟩
  | cons q m ih =>
    obtain ⟨k, c⟩ := q
    simp only [Memory.put] at h
    split at h
    · rcases List.mem_cons.1 h with h | h
      · simp [h]
      · rcases ih h with h | h
        · simp [h]
        · exact .inr h
    · split at h <;> simp only [Memory.cell] at h <;> split at h
      · simp [h]
      · next hb => rcases List.mem_cons.1 h with h | h
                   · exact .inr ⟨h, hb⟩
                   · simp [h]
      · exact .inl h
      · next hb => rcases List.mem_cons.1 h with h | h
                   · exact .inr ⟨h, hb⟩
                   · exact .inl h

/-- A write keeps the addresses strictly rising. -/
theorem Memory.put_sorted {m : Memory} (hs : m.Pairwise fun p q => p.1 < q.1) (a : Nat) (b : Byte) :
    (m.put a b).Pairwise fun p q => p.1 < q.1 := by
  induction m with
  | nil => simp only [Memory.put, Memory.cell]; split <;> simp
  | cons p m ih =>
    obtain ⟨k, c⟩ := p
    have hs' := List.pairwise_cons.1 hs
    simp only [Memory.put]
    split
    · next hk =>
      refine List.pairwise_cons.2 ⟨fun q hq => ?_, ih hs'.2⟩
      rcases Memory.mem_put hq with hq | ⟨rfl, -⟩
      · exact hs'.1 q hq
      · exact hk
    · split
      · next _ hk =>
        subst hk
        simp only [Memory.cell]
        split
        · exact hs'.2
        · exact List.pairwise_cons.2 ⟨hs'.1, hs'.2⟩
      · next h1 h2 =>
        simp only [Memory.cell]
        split
        · exact hs
        · refine List.pairwise_cons.2 ⟨fun q hq => ?_, hs⟩
          rcases List.mem_cons.1 hq with rfl | hq
          · dsimp only; omega
          · have := hs'.1 q hq
            dsimp only at this ⊢; omega

/-- A write to an address of memory keeps the canonical form. -/
theorem Memory.put_wf {m : Memory} (hm : m.wf) {a : Nat} (ha : a < Config.memSize) (b : Byte) : (m.put a b).wf := by
  refine ⟨Memory.put_sorted hm.1 a b, fun p hp => ?_⟩
  rcases Memory.mem_put hp with hp | ⟨rfl, hb⟩
  · exact hm.2 p hp
  · exact ⟨ha, hb⟩

/-- Canonical memories that read alike are equal. -/
theorem Memory.ext {m m' : Memory} (hm : m.wf) (hm' : m'.wf) (h : ∀ a, m.get a = m'.get a) : m = m' := by
  have key : ∀ {m m' : Memory}, m.wf → m'.wf → (∀ a, m.get a = m'.get a) → ∀ p ∈ m, p ∈ m' := by
    intro m m' hm hm' h p hp
    obtain ⟨a, b⟩ := p
    have hg : m'.get a = b := by
      rw [← h a, Memory.get, Memory.lookup_of_mem hm.1 hp]; rfl
    cases hl : Memory.lookup m' a with
    | none =>
      rw [Memory.get, hl] at hg
      exact absurd hg.symm (hm.2 _ hp).2
    | some c =>
      rw [Memory.get, hl] at hg
      have hc : c = b := hg
      subst hc
      exact Memory.mem_of_lookup hl
  have nodup : ∀ {m : Memory}, m.wf → m.Nodup := fun hm => hm.1.imp fun {p q} hpq he => by
    simp [he] at hpq
  refine List.Perm.eq_of_pairwise (le := fun p q : Host.Cell => p.1 < q.1) (fun p q _ _ h1 h2 => ?_) hm.1 hm'.1
    ((List.perm_ext_iff_of_nodup (nodup hm) (nodup hm')).2 fun p => ⟨key hm hm' h p, key hm' hm (fun a => (h a).symm) p⟩)
  exact absurd h1 (Nat.lt_asymm h2)

/-! ### Several bytes -/

/-- A store of several bytes leaves every address outside them alone. -/
theorem Memory.get_putAll_other (m : Memory) (a : Nat) (bs : List Byte) {a' : Nat}
    (h : a' < a ∨ a + bs.length ≤ a') : (m.putAll a bs).get a' = m.get a' := by
  induction bs generalizing m a with
  | nil => rfl
  | cons b bs ih =>
    simp only [List.length_cons] at h
    simp only [Memory.putAll]
    rw [ih _ _ (by omega), Memory.get_put_other m (by omega)]

/-- A store of several bytes to addresses of memory keeps the canonical form. -/
theorem Memory.putAll_wf {m : Memory} (hm : m.wf) (a : Nat) (bs : List Byte)
    (h : a + bs.length ≤ Config.memSize) : (m.putAll a bs).wf := by
  induction bs generalizing m a with
  | nil => exact hm
  | cons b bs ih =>
    simp only [List.length_cons] at h
    exact ih (Memory.put_wf hm (by omega) b) _ (by omega)

/-- A store of several bytes puts the k-th byte at the k-th address. -/
theorem Memory.get_putAll {m : Memory} (hm : m.wf) (a : Nat) (bs : List Byte)
    (h : a + bs.length ≤ Config.memSize) {k : Nat} (hk : k < bs.length) : (m.putAll a bs).get (a + k) = bs[k] := by
  induction bs generalizing m a k with
  | nil => simp at hk
  | cons b bs ih =>
    simp only [List.length_cons] at h hk
    simp only [Memory.putAll]
    cases k with
    | zero =>
      rw [Memory.get_putAll_other _ _ _ (.inl (by omega)), Nat.add_zero, Memory.get_put_same hm.1]; rfl
    | succ k =>
      have := ih (Memory.put_wf hm (a := a) (by omega) b) (a + 1) (by omega) (k := k) (by omega)
      simpa [Nat.add_assoc, Nat.add_comm 1 k] using this

@[simp] theorem Memory.length_getAll (m : Memory) (a n : Nat) : (m.getAll a n).length = n := by simp [Memory.getAll]

@[simp] theorem Memory.getElem_getAll (m : Memory) (a n k : Nat) (h : k < (m.getAll a n).length) :
    (m.getAll a n)[k] = m.get (a + k) := by simp [Memory.getAll]

theorem outOfRange_iff (a : Nat) : outOfRange a = true ↔ 0xFFF < a := by simp [outOfRange]

theorem outOfRange_eq_false_iff (a : Nat) : outOfRange a = false ↔ a ≤ 0xFFF := by
  simp [outOfRange]

end Sys2Proof.Machine
end

