-- ==== Sys2Proof/Laws/Display.lean ====
section
/-! SUPPORT. What each drawing operation does to each pixel and to the collision: one lemma per operation, from a
pixel to a whole sprite (spec/44_display.md R151, R152). -/

namespace Sys2Proof.Machine

theorem onGrid_iff (x y : Nat) : onGrid x y = true ↔ x ≤ 63 ∧ y ≤ 31 := by simp [onGrid]

/-- No pixel is set off the grid (R60). -/
theorem Framebuffer.pixel_off (f : Framebuffer) {x y : Nat} (h : ¬ (x < 64 ∧ y < 32)) :
    Framebuffer.pixel f x y = false := by
  unfold Framebuffer.pixel
  by_cases hy : y < 32
  · have hx : 64 ≤ x := by omega
    exact BitVec.getLsbD_of_ge _ _ hx
  · simp [Vector.getElem?_eq_none (Nat.le_of_not_lt hy)]

theorem Framebuffer.pixel_on (f : Framebuffer) (x : Nat) {y : Nat} (h : y < 32) :
    Framebuffer.pixel f x y = f[y].getLsbD x := by
  simp [Framebuffer.pixel, Vector.getElem?_eq_getElem h]

/-- Framebuffers with the same pixels are equal. -/
theorem Framebuffer.ext {f g : Framebuffer}
    (h : ∀ x y, x < 64 → y < 32 → Framebuffer.pixel f x y = Framebuffer.pixel g x y) : f = g := by
  refine Vector.ext fun y hy => BitVec.eq_of_getLsbD_eq fun x hx => ?_
  rw [← Framebuffer.pixel_on f x hy, ← Framebuffer.pixel_on g x hy]
  exact h x y hx hy

/-- A flip inverts its own pixel, if it is on the grid, and no other (R60, R151). -/
theorem Framebuffer.pixel_flip (f : Framebuffer) (x y px py : Nat) :
    Framebuffer.pixel (Framebuffer.flip f x y) px py =
      ((Framebuffer.pixel f px py) ^^ decide (px = x ∧ py = y ∧ x < 64 ∧ y < 32)) := by
  unfold Framebuffer.flip
  split
  · next h =>
    by_cases hp : py < 32
    · rw [Framebuffer.pixel_on _ _ hp, Framebuffer.pixel_on _ _ hp, Vector.getElem_set]
      split
      · next hy =>
        subst hy
        simp only [BitVec.getLsbD_xor, BitVec.getLsbD_twoPow, h]
        grind
      · next hy => simp [Ne.symm hy]
    · rw [Framebuffer.pixel_off _ (by omega), Framebuffer.pixel_off _ (by omega)]
      have : ¬ (px = x ∧ py = y ∧ x < 64 ∧ y < 32) := by omega
      simp [this]
  · next h =>
    have : ¬ (px = x ∧ py = y ∧ x < 64 ∧ y < 32) := by omega
    simp [this]

@[simp] theorem Framebuffer.pixel_clear (x y : Nat) : Framebuffer.pixel Framebuffer.clear x y = false := by
  by_cases hy : y < 32
  · rw [Framebuffer.pixel_on _ _ hy]; simp [Framebuffer.clear]
  · exact Framebuffer.pixel_off _ (by omega)

/-- A row byte has its bit for the pixel (px, py) when drawn at (x0, y): bit 7 is the leftmost pixel (R152). -/
def rowLights (b : Byte) (x0 y px py : Nat) : Bool :=
  decide (px < 64 ∧ py < 32 ∧ py = y ∧ x0 ≤ px ∧ px < x0 + 8) && b.getLsbD (7 - (px - x0))

/-- The sprite `bs` drawn at (x0, y) has its bit for the pixel (px, py) (R152). -/
def spriteLights : List Byte → Nat → Nat → Nat → Nat → Bool
  | [], _, _, _, _ => false
  | b :: bs, x0, y, px, py => rowLights b x0 y px py || spriteLights bs x0 (y + 1) px py

/-- The effect of a drawing operation that inverts exactly the pixels of `lit` and collides exactly where one of them
was set. -/
structure Drawing.Draws (d d' : Drawing) (lit : Nat → Nat → Bool) : Prop where
  pixel : ∀ px py, Framebuffer.pixel d'.fb px py = ((Framebuffer.pixel d.fb px py) ^^ lit px py)
  collision : d'.collision = true ↔
    d.collision = true ∨ ∃ px py, lit px py = true ∧ Framebuffer.pixel d.fb px py = true

theorem Drawing.Draws.none (d : Drawing) : d.Draws d fun _ _ => false := ⟨by simp, by simp⟩

/-- Two operations that invert disjoint sets of pixels, one after the other, invert the union. -/
theorem Drawing.Draws.trans {d d' d'' : Drawing} {l l' : Nat → Nat → Bool} (h : d.Draws d' l) (h' : d'.Draws d'' l')
    (hd : ∀ px py, l px py = true → l' px py = false) : d.Draws d'' fun px py => l px py || l' px py := by
  refine ⟨fun px py => ?_, ?_⟩
  · rw [h'.pixel, h.pixel]
    have := hd px py
    cases hl : l px py
    · simp
    · simp [this hl]
  · rw [h'.collision, h.collision, or_assoc]
    refine or_congr Iff.rfl ⟨?_, ?_⟩
    · rintro (⟨px, py, h1, h2⟩ | ⟨px, py, h1, h2⟩)
      · exact ⟨px, py, by simp [h1], h2⟩
      · refine ⟨px, py, by simp [h1], ?_⟩
        rw [h.pixel] at h2
        cases hl : l px py
        · simpa [hl] using h2
        · simp [hd px py hl] at h1
    · rintro ⟨px, py, h1, h2⟩
      cases hl : l px py
      · refine .inr ⟨px, py, by simpa [hl] using h1, ?_⟩
        rw [h.pixel, hl, h2]; rfl
      · exact .inl ⟨px, py, hl, h2⟩

theorem Drawing.Draws.congr {d d' : Drawing} {l l' : Nat → Nat → Bool} (h : d.Draws d' l)
    (hl : ∀ px py, l px py = l' px py) : d.Draws d' l' := by
  have : l = l' := funext fun px => funext fun py => hl px py
  exact this ▸ h

/-- One column inverts its pixel when its bit is set and it is on the grid. -/
theorem Drawing.column_draws (b : Byte) (x0 y : Nat) (d : Drawing) (c : Nat) :
    d.Draws (Drawing.column b x0 y d c) fun px py =>
      decide (px = x0 + c ∧ py = y ∧ x0 + c < 64 ∧ y < 32) && b.getLsbD (7 - c) := by
  unfold Drawing.column
  cases hb : b.getLsbD (7 - c)
  · simpa [hb] using Drawing.Draws.none d
  · simp only [if_true, Bool.and_true]
    unfold Drawing.plot
    by_cases hg : x0 + c ≤ 63 ∧ y ≤ 31
    · rw [if_pos ((onGrid_iff _ _).2 hg)]
      refine ⟨fun px py => Framebuffer.pixel_flip _ _ _ _ _, ?_⟩
      simp only [Bool.or_eq_true, decide_eq_true_eq]
      refine or_congr Iff.rfl ⟨fun h => ⟨x0 + c, y, ⟨rfl, rfl, by omega, by omega⟩, h⟩, ?_⟩
      rintro ⟨px, py, ⟨rfl, rfl, -, -⟩, h⟩
      exact h
    · rw [if_neg (by rw [onGrid_iff]; exact hg)]
      refine (Drawing.Draws.none d).congr fun px py => ?_
      have : ¬ (px = x0 + c ∧ py = y ∧ x0 + c < 64 ∧ y < 32) := by omega
      simp [this]

/-- The first n columns of a row. -/
theorem Drawing.columns_draw (b : Byte) (x0 y n : Nat) (d : Drawing) :
    d.Draws ((List.range n).foldl (Drawing.column b x0 y) d) fun px py =>
      decide (px < 64 ∧ py < 32 ∧ py = y ∧ x0 ≤ px ∧ px < x0 + n) && b.getLsbD (7 - (px - x0)) := by
  induction n with
  | zero =>
    refine (Drawing.Draws.none d).congr fun px py => ?_
    have : ¬ (px < 64 ∧ py < 32 ∧ py = y ∧ x0 ≤ px ∧ px < x0 + 0) := by omega
    rw [decide_eq_false this, Bool.false_and]
  | succ n ih =>
    rw [List.range_succ, List.foldl_append, List.foldl_cons, List.foldl_nil]
    refine (ih.trans (Drawing.column_draws b x0 y _ n) fun px py h => ?_).congr fun px py => ?_
    · simp only [Bool.and_eq_true, decide_eq_true_eq] at h
      have : ¬ (px = x0 + n ∧ py = y ∧ x0 + n < 64 ∧ y < 32) := by omega
      simp [this]
    · by_cases hx : px = x0 + n
      · subst hx
        have h1 : ¬ (x0 + n < 64 ∧ py < 32 ∧ py = y ∧ x0 ≤ x0 + n ∧ x0 + n < x0 + n) := by omega
        have h2 : (x0 + n = x0 + n ∧ py = y ∧ x0 + n < 64 ∧ y < 32) ↔
            (x0 + n < 64 ∧ py < 32 ∧ py = y ∧ x0 ≤ x0 + n ∧ x0 + n < x0 + (n + 1)) := by omega
        rw [decide_eq_decide.2 h2, decide_eq_false h1, Nat.add_sub_cancel_left, Bool.false_and, Bool.false_or]
      · have h1 : ¬ (px = x0 + n ∧ py = y ∧ x0 + n < 64 ∧ y < 32) := by omega
        have h2 : (px < 64 ∧ py < 32 ∧ py = y ∧ x0 ≤ px ∧ px < x0 + n) ↔
            (px < 64 ∧ py < 32 ∧ py = y ∧ x0 ≤ px ∧ px < x0 + (n + 1)) := by omega
        rw [decide_eq_decide.2 h2, decide_eq_false h1, Bool.false_and, Bool.or_false]

/-- A row inverts exactly the pixels it has bits for. -/
theorem Drawing.row_draws (d : Drawing) (b : Byte) (x0 y : Nat) : d.Draws (d.row b x0 y) (rowLights b x0 y) :=
  Drawing.columns_draw b x0 y 8 d

/-- A sprite lights no row above its first. -/
theorem spriteLights_above (bs : List Byte) (x0 y px py : Nat) (h : py < y) :
    spriteLights bs x0 y px py = false := by
  induction bs generalizing y with
  | nil => rfl
  | cons b bs ih =>
    have : ¬ (px < 64 ∧ py < 32 ∧ py = y ∧ x0 ≤ px ∧ px < x0 + 8) := by omega
    simp [spriteLights, rowLights, this, ih (y + 1) (by omega)]

/-- A sprite inverts exactly the pixels it has bits for, and collides where one of them was set (R151). -/
theorem Drawing.sprite_draws (d : Drawing) (bs : List Byte) (x0 y : Nat) :
    d.Draws (d.sprite bs x0 y) (spriteLights bs x0 y) := by
  induction bs generalizing d y with
  | nil => exact Drawing.Draws.none d
  | cons b bs ih =>
    refine (d.row_draws b x0 y).trans (ih (d.row b x0 y) (y + 1)) fun px py h => ?_
    simp only [rowLights, Bool.and_eq_true, decide_eq_true_eq] at h
    exact spriteLights_above bs x0 (y + 1) px py (by omega)

/-- Which pixels a sprite has bits for, row by row: row `py - y` of it, at bit `7 - (px - x0)` (R152). -/
theorem spriteLights_iff (bs : List Byte) (x0 y px py : Nat) :
    spriteLights bs x0 y px py = true ↔
      px < 64 ∧ py < 32 ∧ x0 ≤ px ∧ px < x0 + 8 ∧ y ≤ py ∧
        ∃ b, bs[py - y]? = some b ∧ b.getLsbD (7 - (px - x0)) = true := by
  induction bs generalizing y with
  | nil => simp [spriteLights]
  | cons b bs ih =>
    simp only [spriteLights, Bool.or_eq_true, ih, rowLights, Bool.and_eq_true, decide_eq_true_eq]
    rcases Nat.lt_trichotomy py y with h | h | h
    · constructor
      · rintro (⟨h', -⟩ | h') <;> omega
      · intro h'; omega
    · subst h
      simp only [Nat.sub_self, List.getElem?_cons_zero, Option.some.injEq, exists_eq_left']
      constructor
      · rintro (⟨h', hb⟩ | h')
        · exact ⟨h'.1, h'.2.1, h'.2.2.2.1, h'.2.2.2.2, Nat.le_refl _, hb⟩
        · omega
      · rintro ⟨h1, h2, h3, h4, -, hb⟩
        exact .inl ⟨⟨h1, h2, trivial, h3, h4⟩, hb⟩
    · have hs : py - y = (py - (y + 1)) + 1 := by omega
      rw [hs, List.getElem?_cons_succ]
      constructor
      · rintro (⟨h', -⟩ | ⟨h1, h2, h3, h4, h5, hb⟩)
        · omega
        · exact ⟨h1, h2, h3, h4, by omega, hb⟩
      · rintro ⟨h1, h2, h3, h4, h5, hb⟩
        exact .inr ⟨h1, h2, h3, h4, by omega, hb⟩

end Sys2Proof.Machine
end

