-- ==== Sys2Proof/Laws/State.lean ====
section
/-! SUPPORT. One lemma per field per named update of State, true by rfl, and the laws of register reads: later proofs
use these and do not unfold an update. -/

namespace Sys2Proof.Machine.State

variable (s : State)

/-! ### setReg -/

@[simp] theorem setReg_v (x : Reg) (b : Byte) : (s.setReg x b).v = s.v.set x.val b := rfl
@[simp] theorem setReg_i (x : Reg) (b : Byte) : (s.setReg x b).i = s.i := rfl
@[simp] theorem setReg_pc (x : Reg) (b : Byte) : (s.setReg x b).pc = s.pc := rfl
@[simp] theorem setReg_sp (x : Reg) (b : Byte) : (s.setReg x b).sp = s.sp := rfl
@[simp] theorem setReg_stack (x : Reg) (b : Byte) : (s.setReg x b).stack = s.stack := rfl
@[simp] theorem setReg_mem (x : Reg) (b : Byte) : (s.setReg x b).mem = s.mem := rfl
@[simp] theorem setReg_fb (x : Reg) (b : Byte) : (s.setReg x b).fb = s.fb := rfl
@[simp] theorem setReg_damaged (x : Reg) (b : Byte) : (s.setReg x b).damaged = s.damaged := rfl
@[simp] theorem setReg_keys (x : Reg) (b : Byte) : (s.setReg x b).keys = s.keys := rfl
@[simp] theorem setReg_latchWaiting (x : Reg) (b : Byte) : (s.setReg x b).latchWaiting = s.latchWaiting := rfl
@[simp] theorem setReg_latchTarget (x : Reg) (b : Byte) : (s.setReg x b).latchTarget = s.latchTarget := rfl
@[simp] theorem setReg_dt (x : Reg) (b : Byte) : (s.setReg x b).dt = s.dt := rfl
@[simp] theorem setReg_st (x : Reg) (b : Byte) : (s.setReg x b).st = s.st := rfl
@[simp] theorem setReg_dtPhase (x : Reg) (b : Byte) : (s.setReg x b).dtPhase = s.dtPhase := rfl
@[simp] theorem setReg_stPhase (x : Reg) (b : Byte) : (s.setReg x b).stPhase = s.stPhase := rfl
@[simp] theorem setReg_compat (x : Reg) (b : Byte) : (s.setReg x b).compat = s.compat := rfl
@[simp] theorem setReg_engineState (x : Reg) (b : Byte) : (s.setReg x b).engineState = s.engineState := rfl
@[simp] theorem setReg_faultReason (x : Reg) (b : Byte) : (s.setReg x b).faultReason = s.faultReason := rfl
@[simp] theorem setReg_draws (x : Reg) (b : Byte) : (s.setReg x b).draws = s.draws := rfl
@[simp] theorem setReg_outputs (x : Reg) (b : Byte) : (s.setReg x b).outputs = s.outputs := rfl
@[simp] theorem setReg_hostCalls (x : Reg) (b : Byte) : (s.setReg x b).hostCalls = s.hostCalls := rfl

/-! ### setRegs -/

@[simp] theorem setRegs_v (w : Vector Byte 16) : (s.setRegs w).v = w := rfl
@[simp] theorem setRegs_i (w : Vector Byte 16) : (s.setRegs w).i = s.i := rfl
@[simp] theorem setRegs_pc (w : Vector Byte 16) : (s.setRegs w).pc = s.pc := rfl
@[simp] theorem setRegs_sp (w : Vector Byte 16) : (s.setRegs w).sp = s.sp := rfl
@[simp] theorem setRegs_stack (w : Vector Byte 16) : (s.setRegs w).stack = s.stack := rfl
@[simp] theorem setRegs_mem (w : Vector Byte 16) : (s.setRegs w).mem = s.mem := rfl
@[simp] theorem setRegs_fb (w : Vector Byte 16) : (s.setRegs w).fb = s.fb := rfl
@[simp] theorem setRegs_damaged (w : Vector Byte 16) : (s.setRegs w).damaged = s.damaged := rfl
@[simp] theorem setRegs_keys (w : Vector Byte 16) : (s.setRegs w).keys = s.keys := rfl
@[simp] theorem setRegs_latchWaiting (w : Vector Byte 16) : (s.setRegs w).latchWaiting = s.latchWaiting := rfl
@[simp] theorem setRegs_latchTarget (w : Vector Byte 16) : (s.setRegs w).latchTarget = s.latchTarget := rfl
@[simp] theorem setRegs_dt (w : Vector Byte 16) : (s.setRegs w).dt = s.dt := rfl
@[simp] theorem setRegs_st (w : Vector Byte 16) : (s.setRegs w).st = s.st := rfl
@[simp] theorem setRegs_dtPhase (w : Vector Byte 16) : (s.setRegs w).dtPhase = s.dtPhase := rfl
@[simp] theorem setRegs_stPhase (w : Vector Byte 16) : (s.setRegs w).stPhase = s.stPhase := rfl
@[simp] theorem setRegs_compat (w : Vector Byte 16) : (s.setRegs w).compat = s.compat := rfl
@[simp] theorem setRegs_engineState (w : Vector Byte 16) : (s.setRegs w).engineState = s.engineState := rfl
@[simp] theorem setRegs_faultReason (w : Vector Byte 16) : (s.setRegs w).faultReason = s.faultReason := rfl
@[simp] theorem setRegs_draws (w : Vector Byte 16) : (s.setRegs w).draws = s.draws := rfl
@[simp] theorem setRegs_outputs (w : Vector Byte 16) : (s.setRegs w).outputs = s.outputs := rfl
@[simp] theorem setRegs_hostCalls (w : Vector Byte 16) : (s.setRegs w).hostCalls = s.hostCalls := rfl

/-! ### setI -/

@[simp] theorem setI_v (a : Word) : (s.setI a).v = s.v := rfl
@[simp] theorem setI_i (a : Word) : (s.setI a).i = a := rfl
@[simp] theorem setI_pc (a : Word) : (s.setI a).pc = s.pc := rfl
@[simp] theorem setI_sp (a : Word) : (s.setI a).sp = s.sp := rfl
@[simp] theorem setI_stack (a : Word) : (s.setI a).stack = s.stack := rfl
@[simp] theorem setI_mem (a : Word) : (s.setI a).mem = s.mem := rfl
@[simp] theorem setI_fb (a : Word) : (s.setI a).fb = s.fb := rfl
@[simp] theorem setI_damaged (a : Word) : (s.setI a).damaged = s.damaged := rfl
@[simp] theorem setI_keys (a : Word) : (s.setI a).keys = s.keys := rfl
@[simp] theorem setI_latchWaiting (a : Word) : (s.setI a).latchWaiting = s.latchWaiting := rfl
@[simp] theorem setI_latchTarget (a : Word) : (s.setI a).latchTarget = s.latchTarget := rfl
@[simp] theorem setI_dt (a : Word) : (s.setI a).dt = s.dt := rfl
@[simp] theorem setI_st (a : Word) : (s.setI a).st = s.st := rfl
@[simp] theorem setI_dtPhase (a : Word) : (s.setI a).dtPhase = s.dtPhase := rfl
@[simp] theorem setI_stPhase (a : Word) : (s.setI a).stPhase = s.stPhase := rfl
@[simp] theorem setI_compat (a : Word) : (s.setI a).compat = s.compat := rfl
@[simp] theorem setI_engineState (a : Word) : (s.setI a).engineState = s.engineState := rfl
@[simp] theorem setI_faultReason (a : Word) : (s.setI a).faultReason = s.faultReason := rfl
@[simp] theorem setI_draws (a : Word) : (s.setI a).draws = s.draws := rfl
@[simp] theorem setI_outputs (a : Word) : (s.setI a).outputs = s.outputs := rfl
@[simp] theorem setI_hostCalls (a : Word) : (s.setI a).hostCalls = s.hostCalls := rfl

/-! ### setPc -/

@[simp] theorem setPc_v (a : Word) : (s.setPc a).v = s.v := rfl
@[simp] theorem setPc_i (a : Word) : (s.setPc a).i = s.i := rfl
@[simp] theorem setPc_pc (a : Word) : (s.setPc a).pc = a := rfl
@[simp] theorem setPc_sp (a : Word) : (s.setPc a).sp = s.sp := rfl
@[simp] theorem setPc_stack (a : Word) : (s.setPc a).stack = s.stack := rfl
@[simp] theorem setPc_mem (a : Word) : (s.setPc a).mem = s.mem := rfl
@[simp] theorem setPc_fb (a : Word) : (s.setPc a).fb = s.fb := rfl
@[simp] theorem setPc_damaged (a : Word) : (s.setPc a).damaged = s.damaged := rfl
@[simp] theorem setPc_keys (a : Word) : (s.setPc a).keys = s.keys := rfl
@[simp] theorem setPc_latchWaiting (a : Word) : (s.setPc a).latchWaiting = s.latchWaiting := rfl
@[simp] theorem setPc_latchTarget (a : Word) : (s.setPc a).latchTarget = s.latchTarget := rfl
@[simp] theorem setPc_dt (a : Word) : (s.setPc a).dt = s.dt := rfl
@[simp] theorem setPc_st (a : Word) : (s.setPc a).st = s.st := rfl
@[simp] theorem setPc_dtPhase (a : Word) : (s.setPc a).dtPhase = s.dtPhase := rfl
@[simp] theorem setPc_stPhase (a : Word) : (s.setPc a).stPhase = s.stPhase := rfl
@[simp] theorem setPc_compat (a : Word) : (s.setPc a).compat = s.compat := rfl
@[simp] theorem setPc_engineState (a : Word) : (s.setPc a).engineState = s.engineState := rfl
@[simp] theorem setPc_faultReason (a : Word) : (s.setPc a).faultReason = s.faultReason := rfl
@[simp] theorem setPc_draws (a : Word) : (s.setPc a).draws = s.draws := rfl
@[simp] theorem setPc_outputs (a : Word) : (s.setPc a).outputs = s.outputs := rfl
@[simp] theorem setPc_hostCalls (a : Word) : (s.setPc a).hostCalls = s.hostCalls := rfl

/-! ### setMem -/

@[simp] theorem setMem_v (m : Memory) : (s.setMem m).v = s.v := rfl
@[simp] theorem setMem_i (m : Memory) : (s.setMem m).i = s.i := rfl
@[simp] theorem setMem_pc (m : Memory) : (s.setMem m).pc = s.pc := rfl
@[simp] theorem setMem_sp (m : Memory) : (s.setMem m).sp = s.sp := rfl
@[simp] theorem setMem_stack (m : Memory) : (s.setMem m).stack = s.stack := rfl
@[simp] theorem setMem_mem (m : Memory) : (s.setMem m).mem = m := rfl
@[simp] theorem setMem_fb (m : Memory) : (s.setMem m).fb = s.fb := rfl
@[simp] theorem setMem_damaged (m : Memory) : (s.setMem m).damaged = s.damaged := rfl
@[simp] theorem setMem_keys (m : Memory) : (s.setMem m).keys = s.keys := rfl
@[simp] theorem setMem_latchWaiting (m : Memory) : (s.setMem m).latchWaiting = s.latchWaiting := rfl
@[simp] theorem setMem_latchTarget (m : Memory) : (s.setMem m).latchTarget = s.latchTarget := rfl
@[simp] theorem setMem_dt (m : Memory) : (s.setMem m).dt = s.dt := rfl
@[simp] theorem setMem_st (m : Memory) : (s.setMem m).st = s.st := rfl
@[simp] theorem setMem_dtPhase (m : Memory) : (s.setMem m).dtPhase = s.dtPhase := rfl
@[simp] theorem setMem_stPhase (m : Memory) : (s.setMem m).stPhase = s.stPhase := rfl
@[simp] theorem setMem_compat (m : Memory) : (s.setMem m).compat = s.compat := rfl
@[simp] theorem setMem_engineState (m : Memory) : (s.setMem m).engineState = s.engineState := rfl
@[simp] theorem setMem_faultReason (m : Memory) : (s.setMem m).faultReason = s.faultReason := rfl
@[simp] theorem setMem_draws (m : Memory) : (s.setMem m).draws = s.draws := rfl
@[simp] theorem setMem_outputs (m : Memory) : (s.setMem m).outputs = s.outputs := rfl
@[simp] theorem setMem_hostCalls (m : Memory) : (s.setMem m).hostCalls = s.hostCalls := rfl

/-! ### setDt -/

@[simp] theorem setDt_v (b : Byte) : (s.setDt b).v = s.v := rfl
@[simp] theorem setDt_i (b : Byte) : (s.setDt b).i = s.i := rfl
@[simp] theorem setDt_pc (b : Byte) : (s.setDt b).pc = s.pc := rfl
@[simp] theorem setDt_sp (b : Byte) : (s.setDt b).sp = s.sp := rfl
@[simp] theorem setDt_stack (b : Byte) : (s.setDt b).stack = s.stack := rfl
@[simp] theorem setDt_mem (b : Byte) : (s.setDt b).mem = s.mem := rfl
@[simp] theorem setDt_fb (b : Byte) : (s.setDt b).fb = s.fb := rfl
@[simp] theorem setDt_damaged (b : Byte) : (s.setDt b).damaged = s.damaged := rfl
@[simp] theorem setDt_keys (b : Byte) : (s.setDt b).keys = s.keys := rfl
@[simp] theorem setDt_latchWaiting (b : Byte) : (s.setDt b).latchWaiting = s.latchWaiting := rfl
@[simp] theorem setDt_latchTarget (b : Byte) : (s.setDt b).latchTarget = s.latchTarget := rfl
@[simp] theorem setDt_dt (b : Byte) : (s.setDt b).dt = b := rfl
@[simp] theorem setDt_st (b : Byte) : (s.setDt b).st = s.st := rfl
@[simp] theorem setDt_dtPhase (b : Byte) : (s.setDt b).dtPhase = s.dtPhase := rfl
@[simp] theorem setDt_stPhase (b : Byte) : (s.setDt b).stPhase = s.stPhase := rfl
@[simp] theorem setDt_compat (b : Byte) : (s.setDt b).compat = s.compat := rfl
@[simp] theorem setDt_engineState (b : Byte) : (s.setDt b).engineState = s.engineState := rfl
@[simp] theorem setDt_faultReason (b : Byte) : (s.setDt b).faultReason = s.faultReason := rfl
@[simp] theorem setDt_draws (b : Byte) : (s.setDt b).draws = s.draws := rfl
@[simp] theorem setDt_outputs (b : Byte) : (s.setDt b).outputs = s.outputs := rfl
@[simp] theorem setDt_hostCalls (b : Byte) : (s.setDt b).hostCalls = s.hostCalls := rfl

/-! ### setSt -/

@[simp] theorem setSt_v (b : Byte) : (s.setSt b).v = s.v := rfl
@[simp] theorem setSt_i (b : Byte) : (s.setSt b).i = s.i := rfl
@[simp] theorem setSt_pc (b : Byte) : (s.setSt b).pc = s.pc := rfl
@[simp] theorem setSt_sp (b : Byte) : (s.setSt b).sp = s.sp := rfl
@[simp] theorem setSt_stack (b : Byte) : (s.setSt b).stack = s.stack := rfl
@[simp] theorem setSt_mem (b : Byte) : (s.setSt b).mem = s.mem := rfl
@[simp] theorem setSt_fb (b : Byte) : (s.setSt b).fb = s.fb := rfl
@[simp] theorem setSt_damaged (b : Byte) : (s.setSt b).damaged = s.damaged := rfl
@[simp] theorem setSt_keys (b : Byte) : (s.setSt b).keys = s.keys := rfl
@[simp] theorem setSt_latchWaiting (b : Byte) : (s.setSt b).latchWaiting = s.latchWaiting := rfl
@[simp] theorem setSt_latchTarget (b : Byte) : (s.setSt b).latchTarget = s.latchTarget := rfl
@[simp] theorem setSt_dt (b : Byte) : (s.setSt b).dt = s.dt := rfl
@[simp] theorem setSt_st (b : Byte) : (s.setSt b).st = b := rfl
@[simp] theorem setSt_dtPhase (b : Byte) : (s.setSt b).dtPhase = s.dtPhase := rfl
@[simp] theorem setSt_stPhase (b : Byte) : (s.setSt b).stPhase = s.stPhase := rfl
@[simp] theorem setSt_compat (b : Byte) : (s.setSt b).compat = s.compat := rfl
@[simp] theorem setSt_engineState (b : Byte) : (s.setSt b).engineState = s.engineState := rfl
@[simp] theorem setSt_faultReason (b : Byte) : (s.setSt b).faultReason = s.faultReason := rfl
@[simp] theorem setSt_draws (b : Byte) : (s.setSt b).draws = s.draws := rfl
@[simp] theorem setSt_outputs (b : Byte) : (s.setSt b).outputs = s.outputs := rfl
@[simp] theorem setSt_hostCalls (b : Byte) : (s.setSt b).hostCalls = s.hostCalls := rfl

/-! ### setScreen -/

@[simp] theorem setScreen_v (f : Framebuffer) : (s.setScreen f).v = s.v := rfl
@[simp] theorem setScreen_i (f : Framebuffer) : (s.setScreen f).i = s.i := rfl
@[simp] theorem setScreen_pc (f : Framebuffer) : (s.setScreen f).pc = s.pc := rfl
@[simp] theorem setScreen_sp (f : Framebuffer) : (s.setScreen f).sp = s.sp := rfl
@[simp] theorem setScreen_stack (f : Framebuffer) : (s.setScreen f).stack = s.stack := rfl
@[simp] theorem setScreen_mem (f : Framebuffer) : (s.setScreen f).mem = s.mem := rfl
@[simp] theorem setScreen_fb (f : Framebuffer) : (s.setScreen f).fb = f := rfl
@[simp] theorem setScreen_damaged (f : Framebuffer) : (s.setScreen f).damaged = true := rfl
@[simp] theorem setScreen_keys (f : Framebuffer) : (s.setScreen f).keys = s.keys := rfl
@[simp] theorem setScreen_latchWaiting (f : Framebuffer) : (s.setScreen f).latchWaiting = s.latchWaiting := rfl
@[simp] theorem setScreen_latchTarget (f : Framebuffer) : (s.setScreen f).latchTarget = s.latchTarget := rfl
@[simp] theorem setScreen_dt (f : Framebuffer) : (s.setScreen f).dt = s.dt := rfl
@[simp] theorem setScreen_st (f : Framebuffer) : (s.setScreen f).st = s.st := rfl
@[simp] theorem setScreen_dtPhase (f : Framebuffer) : (s.setScreen f).dtPhase = s.dtPhase := rfl
@[simp] theorem setScreen_stPhase (f : Framebuffer) : (s.setScreen f).stPhase = s.stPhase := rfl
@[simp] theorem setScreen_compat (f : Framebuffer) : (s.setScreen f).compat = s.compat := rfl
@[simp] theorem setScreen_engineState (f : Framebuffer) : (s.setScreen f).engineState = s.engineState := rfl
@[simp] theorem setScreen_faultReason (f : Framebuffer) : (s.setScreen f).faultReason = s.faultReason := rfl
@[simp] theorem setScreen_draws (f : Framebuffer) : (s.setScreen f).draws = s.draws := rfl
@[simp] theorem setScreen_outputs (f : Framebuffer) : (s.setScreen f).outputs = s.outputs := rfl
@[simp] theorem setScreen_hostCalls (f : Framebuffer) : (s.setScreen f).hostCalls = s.hostCalls := rfl

/-! ### emit -/

@[simp] theorem emit_v (o : Output) : (s.emit o).v = s.v := rfl
@[simp] theorem emit_i (o : Output) : (s.emit o).i = s.i := rfl
@[simp] theorem emit_pc (o : Output) : (s.emit o).pc = s.pc := rfl
@[simp] theorem emit_sp (o : Output) : (s.emit o).sp = s.sp := rfl
@[simp] theorem emit_stack (o : Output) : (s.emit o).stack = s.stack := rfl
@[simp] theorem emit_mem (o : Output) : (s.emit o).mem = s.mem := rfl
@[simp] theorem emit_fb (o : Output) : (s.emit o).fb = s.fb := rfl
@[simp] theorem emit_damaged (o : Output) : (s.emit o).damaged = s.damaged := rfl
@[simp] theorem emit_keys (o : Output) : (s.emit o).keys = s.keys := rfl
@[simp] theorem emit_latchWaiting (o : Output) : (s.emit o).latchWaiting = s.latchWaiting := rfl
@[simp] theorem emit_latchTarget (o : Output) : (s.emit o).latchTarget = s.latchTarget := rfl
@[simp] theorem emit_dt (o : Output) : (s.emit o).dt = s.dt := rfl
@[simp] theorem emit_st (o : Output) : (s.emit o).st = s.st := rfl
@[simp] theorem emit_dtPhase (o : Output) : (s.emit o).dtPhase = s.dtPhase := rfl
@[simp] theorem emit_stPhase (o : Output) : (s.emit o).stPhase = s.stPhase := rfl
@[simp] theorem emit_compat (o : Output) : (s.emit o).compat = s.compat := rfl
@[simp] theorem emit_engineState (o : Output) : (s.emit o).engineState = s.engineState := rfl
@[simp] theorem emit_faultReason (o : Output) : (s.emit o).faultReason = s.faultReason := rfl
@[simp] theorem emit_draws (o : Output) : (s.emit o).draws = s.draws := rfl
@[simp] theorem emit_outputs (o : Output) : (s.emit o).outputs = o :: s.outputs := rfl
@[simp] theorem emit_hostCalls (o : Output) : (s.emit o).hostCalls = s.hostCalls := rfl

/-! ### tookDraw -/

@[simp] theorem tookDraw_v : (s.tookDraw).v = s.v := rfl
@[simp] theorem tookDraw_i : (s.tookDraw).i = s.i := rfl
@[simp] theorem tookDraw_pc : (s.tookDraw).pc = s.pc := rfl
@[simp] theorem tookDraw_sp : (s.tookDraw).sp = s.sp := rfl
@[simp] theorem tookDraw_stack : (s.tookDraw).stack = s.stack := rfl
@[simp] theorem tookDraw_mem : (s.tookDraw).mem = s.mem := rfl
@[simp] theorem tookDraw_fb : (s.tookDraw).fb = s.fb := rfl
@[simp] theorem tookDraw_damaged : (s.tookDraw).damaged = s.damaged := rfl
@[simp] theorem tookDraw_keys : (s.tookDraw).keys = s.keys := rfl
@[simp] theorem tookDraw_latchWaiting : (s.tookDraw).latchWaiting = s.latchWaiting := rfl
@[simp] theorem tookDraw_latchTarget : (s.tookDraw).latchTarget = s.latchTarget := rfl
@[simp] theorem tookDraw_dt : (s.tookDraw).dt = s.dt := rfl
@[simp] theorem tookDraw_st : (s.tookDraw).st = s.st := rfl
@[simp] theorem tookDraw_dtPhase : (s.tookDraw).dtPhase = s.dtPhase := rfl
@[simp] theorem tookDraw_stPhase : (s.tookDraw).stPhase = s.stPhase := rfl
@[simp] theorem tookDraw_compat : (s.tookDraw).compat = s.compat := rfl
@[simp] theorem tookDraw_engineState : (s.tookDraw).engineState = s.engineState := rfl
@[simp] theorem tookDraw_faultReason : (s.tookDraw).faultReason = s.faultReason := rfl
@[simp] theorem tookDraw_draws : (s.tookDraw).draws = s.draws + 1 := rfl
@[simp] theorem tookDraw_outputs : (s.tookDraw).outputs = s.outputs := rfl
@[simp] theorem tookDraw_hostCalls : (s.tookDraw).hostCalls = s.hostCalls := rfl

/-! ### push -/

@[simp] theorem push_v (a : Word) : (s.push a).v = s.v := rfl
@[simp] theorem push_i (a : Word) : (s.push a).i = s.i := rfl
@[simp] theorem push_pc (a : Word) : (s.push a).pc = s.pc := rfl
@[simp] theorem push_sp (a : Word) : (s.push a).sp = s.sp + 1 := rfl
@[simp] theorem push_stack (a : Word) : (s.push a).stack = s.stack.set s.sp.toNat a := rfl
@[simp] theorem push_mem (a : Word) : (s.push a).mem = s.mem := rfl
@[simp] theorem push_fb (a : Word) : (s.push a).fb = s.fb := rfl
@[simp] theorem push_damaged (a : Word) : (s.push a).damaged = s.damaged := rfl
@[simp] theorem push_keys (a : Word) : (s.push a).keys = s.keys := rfl
@[simp] theorem push_latchWaiting (a : Word) : (s.push a).latchWaiting = s.latchWaiting := rfl
@[simp] theorem push_latchTarget (a : Word) : (s.push a).latchTarget = s.latchTarget := rfl
@[simp] theorem push_dt (a : Word) : (s.push a).dt = s.dt := rfl
@[simp] theorem push_st (a : Word) : (s.push a).st = s.st := rfl
@[simp] theorem push_dtPhase (a : Word) : (s.push a).dtPhase = s.dtPhase := rfl
@[simp] theorem push_stPhase (a : Word) : (s.push a).stPhase = s.stPhase := rfl
@[simp] theorem push_compat (a : Word) : (s.push a).compat = s.compat := rfl
@[simp] theorem push_engineState (a : Word) : (s.push a).engineState = s.engineState := rfl
@[simp] theorem push_faultReason (a : Word) : (s.push a).faultReason = s.faultReason := rfl
@[simp] theorem push_draws (a : Word) : (s.push a).draws = s.draws := rfl
@[simp] theorem push_outputs (a : Word) : (s.push a).outputs = s.outputs := rfl
@[simp] theorem push_hostCalls (a : Word) : (s.push a).hostCalls = s.hostCalls := rfl

/-! ### dropTop -/

@[simp] theorem dropTop_v : (s.dropTop).v = s.v := rfl
@[simp] theorem dropTop_i : (s.dropTop).i = s.i := rfl
@[simp] theorem dropTop_pc : (s.dropTop).pc = s.pc := rfl
@[simp] theorem dropTop_sp : (s.dropTop).sp = s.sp - 1 := rfl
@[simp] theorem dropTop_stack : (s.dropTop).stack = s.stack := rfl
@[simp] theorem dropTop_mem : (s.dropTop).mem = s.mem := rfl
@[simp] theorem dropTop_fb : (s.dropTop).fb = s.fb := rfl
@[simp] theorem dropTop_damaged : (s.dropTop).damaged = s.damaged := rfl
@[simp] theorem dropTop_keys : (s.dropTop).keys = s.keys := rfl
@[simp] theorem dropTop_latchWaiting : (s.dropTop).latchWaiting = s.latchWaiting := rfl
@[simp] theorem dropTop_latchTarget : (s.dropTop).latchTarget = s.latchTarget := rfl
@[simp] theorem dropTop_dt : (s.dropTop).dt = s.dt := rfl
@[simp] theorem dropTop_st : (s.dropTop).st = s.st := rfl
@[simp] theorem dropTop_dtPhase : (s.dropTop).dtPhase = s.dtPhase := rfl
@[simp] theorem dropTop_stPhase : (s.dropTop).stPhase = s.stPhase := rfl
@[simp] theorem dropTop_compat : (s.dropTop).compat = s.compat := rfl
@[simp] theorem dropTop_engineState : (s.dropTop).engineState = s.engineState := rfl
@[simp] theorem dropTop_faultReason : (s.dropTop).faultReason = s.faultReason := rfl
@[simp] theorem dropTop_draws : (s.dropTop).draws = s.draws := rfl
@[simp] theorem dropTop_outputs : (s.dropTop).outputs = s.outputs := rfl
@[simp] theorem dropTop_hostCalls : (s.dropTop).hostCalls = s.hostCalls := rfl

/-! ### advance -/

@[simp] theorem advance_v : (s.advance).v = s.v := rfl
@[simp] theorem advance_i : (s.advance).i = s.i := rfl
@[simp] theorem advance_pc : (s.advance).pc = s.pc + 2 := rfl
@[simp] theorem advance_sp : (s.advance).sp = s.sp := rfl
@[simp] theorem advance_stack : (s.advance).stack = s.stack := rfl
@[simp] theorem advance_mem : (s.advance).mem = s.mem := rfl
@[simp] theorem advance_fb : (s.advance).fb = s.fb := rfl
@[simp] theorem advance_damaged : (s.advance).damaged = s.damaged := rfl
@[simp] theorem advance_keys : (s.advance).keys = s.keys := rfl
@[simp] theorem advance_latchWaiting : (s.advance).latchWaiting = s.latchWaiting := rfl
@[simp] theorem advance_latchTarget : (s.advance).latchTarget = s.latchTarget := rfl
@[simp] theorem advance_dt : (s.advance).dt = s.dt := rfl
@[simp] theorem advance_st : (s.advance).st = s.st := rfl
@[simp] theorem advance_dtPhase : (s.advance).dtPhase = s.dtPhase := rfl
@[simp] theorem advance_stPhase : (s.advance).stPhase = s.stPhase := rfl
@[simp] theorem advance_compat : (s.advance).compat = s.compat := rfl
@[simp] theorem advance_engineState : (s.advance).engineState = s.engineState := rfl
@[simp] theorem advance_faultReason : (s.advance).faultReason = s.faultReason := rfl
@[simp] theorem advance_draws : (s.advance).draws = s.draws := rfl
@[simp] theorem advance_outputs : (s.advance).outputs = s.outputs := rfl
@[simp] theorem advance_hostCalls : (s.advance).hostCalls = s.hostCalls := rfl

/-! ### skipIf -/

@[simp] theorem skipIf_v (c : Bool) : (s.skipIf c).v = s.v := rfl
@[simp] theorem skipIf_i (c : Bool) : (s.skipIf c).i = s.i := rfl
@[simp] theorem skipIf_pc (c : Bool) : (s.skipIf c).pc = if c then s.pc + 4 else s.pc + 2 := rfl
@[simp] theorem skipIf_sp (c : Bool) : (s.skipIf c).sp = s.sp := rfl
@[simp] theorem skipIf_stack (c : Bool) : (s.skipIf c).stack = s.stack := rfl
@[simp] theorem skipIf_mem (c : Bool) : (s.skipIf c).mem = s.mem := rfl
@[simp] theorem skipIf_fb (c : Bool) : (s.skipIf c).fb = s.fb := rfl
@[simp] theorem skipIf_damaged (c : Bool) : (s.skipIf c).damaged = s.damaged := rfl
@[simp] theorem skipIf_keys (c : Bool) : (s.skipIf c).keys = s.keys := rfl
@[simp] theorem skipIf_latchWaiting (c : Bool) : (s.skipIf c).latchWaiting = s.latchWaiting := rfl
@[simp] theorem skipIf_latchTarget (c : Bool) : (s.skipIf c).latchTarget = s.latchTarget := rfl
@[simp] theorem skipIf_dt (c : Bool) : (s.skipIf c).dt = s.dt := rfl
@[simp] theorem skipIf_st (c : Bool) : (s.skipIf c).st = s.st := rfl
@[simp] theorem skipIf_dtPhase (c : Bool) : (s.skipIf c).dtPhase = s.dtPhase := rfl
@[simp] theorem skipIf_stPhase (c : Bool) : (s.skipIf c).stPhase = s.stPhase := rfl
@[simp] theorem skipIf_compat (c : Bool) : (s.skipIf c).compat = s.compat := rfl
@[simp] theorem skipIf_engineState (c : Bool) : (s.skipIf c).engineState = s.engineState := rfl
@[simp] theorem skipIf_faultReason (c : Bool) : (s.skipIf c).faultReason = s.faultReason := rfl
@[simp] theorem skipIf_draws (c : Bool) : (s.skipIf c).draws = s.draws := rfl
@[simp] theorem skipIf_outputs (c : Bool) : (s.skipIf c).outputs = s.outputs := rfl
@[simp] theorem skipIf_hostCalls (c : Bool) : (s.skipIf c).hostCalls = s.hostCalls := rfl

/-! ### beginWait -/

@[simp] theorem beginWait_v (x : Reg) : (s.beginWait x).v = s.v := rfl
@[simp] theorem beginWait_i (x : Reg) : (s.beginWait x).i = s.i := rfl
@[simp] theorem beginWait_pc (x : Reg) : (s.beginWait x).pc = s.pc := rfl
@[simp] theorem beginWait_sp (x : Reg) : (s.beginWait x).sp = s.sp := rfl
@[simp] theorem beginWait_stack (x : Reg) : (s.beginWait x).stack = s.stack := rfl
@[simp] theorem beginWait_mem (x : Reg) : (s.beginWait x).mem = s.mem := rfl
@[simp] theorem beginWait_fb (x : Reg) : (s.beginWait x).fb = s.fb := rfl
@[simp] theorem beginWait_damaged (x : Reg) : (s.beginWait x).damaged = s.damaged := rfl
@[simp] theorem beginWait_keys (x : Reg) : (s.beginWait x).keys = s.keys := rfl
@[simp] theorem beginWait_latchWaiting (x : Reg) : (s.beginWait x).latchWaiting = true := rfl
@[simp] theorem beginWait_latchTarget (x : Reg) : (s.beginWait x).latchTarget = x := rfl
@[simp] theorem beginWait_dt (x : Reg) : (s.beginWait x).dt = s.dt := rfl
@[simp] theorem beginWait_st (x : Reg) : (s.beginWait x).st = s.st := rfl
@[simp] theorem beginWait_dtPhase (x : Reg) : (s.beginWait x).dtPhase = s.dtPhase := rfl
@[simp] theorem beginWait_stPhase (x : Reg) : (s.beginWait x).stPhase = s.stPhase := rfl
@[simp] theorem beginWait_compat (x : Reg) : (s.beginWait x).compat = s.compat := rfl
@[simp] theorem beginWait_engineState (x : Reg) : (s.beginWait x).engineState = .awaitingKey := rfl
@[simp] theorem beginWait_faultReason (x : Reg) : (s.beginWait x).faultReason = s.faultReason := rfl
@[simp] theorem beginWait_draws (x : Reg) : (s.beginWait x).draws = s.draws := rfl
@[simp] theorem beginWait_outputs (x : Reg) : (s.beginWait x).outputs = s.outputs := rfl
@[simp] theorem beginWait_hostCalls (x : Reg) : (s.beginWait x).hostCalls = s.hostCalls := rfl

/-! ### endWait -/

@[simp] theorem endWait_v : (s.endWait).v = s.v := rfl
@[simp] theorem endWait_i : (s.endWait).i = s.i := rfl
@[simp] theorem endWait_pc : (s.endWait).pc = s.pc + 2 := rfl
@[simp] theorem endWait_sp : (s.endWait).sp = s.sp := rfl
@[simp] theorem endWait_stack : (s.endWait).stack = s.stack := rfl
@[simp] theorem endWait_mem : (s.endWait).mem = s.mem := rfl
@[simp] theorem endWait_fb : (s.endWait).fb = s.fb := rfl
@[simp] theorem endWait_damaged : (s.endWait).damaged = s.damaged := rfl
@[simp] theorem endWait_keys : (s.endWait).keys = s.keys := rfl
@[simp] theorem endWait_latchWaiting : (s.endWait).latchWaiting = s.latchWaiting := rfl
@[simp] theorem endWait_latchTarget : (s.endWait).latchTarget = s.latchTarget := rfl
@[simp] theorem endWait_dt : (s.endWait).dt = s.dt := rfl
@[simp] theorem endWait_st : (s.endWait).st = s.st := rfl
@[simp] theorem endWait_dtPhase : (s.endWait).dtPhase = s.dtPhase := rfl
@[simp] theorem endWait_stPhase : (s.endWait).stPhase = s.stPhase := rfl
@[simp] theorem endWait_compat : (s.endWait).compat = s.compat := rfl
@[simp] theorem endWait_engineState : (s.endWait).engineState = .running := rfl
@[simp] theorem endWait_faultReason : (s.endWait).faultReason = s.faultReason := rfl
@[simp] theorem endWait_draws : (s.endWait).draws = s.draws := rfl
@[simp] theorem endWait_outputs : (s.endWait).outputs = s.outputs := rfl
@[simp] theorem endWait_hostCalls : (s.endWait).hostCalls = s.hostCalls := rfl

/-! ### raise -/

@[simp] theorem raise_v (f : Fault) : (s.raise f).v = s.v := rfl
@[simp] theorem raise_i (f : Fault) : (s.raise f).i = s.i := rfl
@[simp] theorem raise_pc (f : Fault) : (s.raise f).pc = s.pc := rfl
@[simp] theorem raise_sp (f : Fault) : (s.raise f).sp = s.sp := rfl
@[simp] theorem raise_stack (f : Fault) : (s.raise f).stack = s.stack := rfl
@[simp] theorem raise_mem (f : Fault) : (s.raise f).mem = s.mem := rfl
@[simp] theorem raise_fb (f : Fault) : (s.raise f).fb = s.fb := rfl
@[simp] theorem raise_damaged (f : Fault) : (s.raise f).damaged = s.damaged := rfl
@[simp] theorem raise_keys (f : Fault) : (s.raise f).keys = s.keys := rfl
@[simp] theorem raise_latchWaiting (f : Fault) : (s.raise f).latchWaiting = s.latchWaiting := rfl
@[simp] theorem raise_latchTarget (f : Fault) : (s.raise f).latchTarget = s.latchTarget := rfl
@[simp] theorem raise_dt (f : Fault) : (s.raise f).dt = s.dt := rfl
@[simp] theorem raise_st (f : Fault) : (s.raise f).st = s.st := rfl
@[simp] theorem raise_dtPhase (f : Fault) : (s.raise f).dtPhase = s.dtPhase := rfl
@[simp] theorem raise_stPhase (f : Fault) : (s.raise f).stPhase = s.stPhase := rfl
@[simp] theorem raise_compat (f : Fault) : (s.raise f).compat = s.compat := rfl
@[simp] theorem raise_engineState (f : Fault) : (s.raise f).engineState = .faulted := rfl
@[simp] theorem raise_faultReason (f : Fault) : (s.raise f).faultReason = some f := rfl
@[simp] theorem raise_draws (f : Fault) : (s.raise f).draws = s.draws := rfl
@[simp] theorem raise_outputs (f : Fault) : (s.raise f).outputs = s.outputs := rfl
@[simp] theorem raise_hostCalls (f : Fault) : (s.raise f).hostCalls = s.hostCalls := rfl

/-! ### setFlag -/

@[simp] theorem setFlag_v (c : Bool) : (s.setFlag c).v = s.v.set 15 (flag c) := rfl
@[simp] theorem setFlag_i (c : Bool) : (s.setFlag c).i = s.i := rfl
@[simp] theorem setFlag_pc (c : Bool) : (s.setFlag c).pc = s.pc := rfl
@[simp] theorem setFlag_sp (c : Bool) : (s.setFlag c).sp = s.sp := rfl
@[simp] theorem setFlag_stack (c : Bool) : (s.setFlag c).stack = s.stack := rfl
@[simp] theorem setFlag_mem (c : Bool) : (s.setFlag c).mem = s.mem := rfl
@[simp] theorem setFlag_fb (c : Bool) : (s.setFlag c).fb = s.fb := rfl
@[simp] theorem setFlag_damaged (c : Bool) : (s.setFlag c).damaged = s.damaged := rfl
@[simp] theorem setFlag_keys (c : Bool) : (s.setFlag c).keys = s.keys := rfl
@[simp] theorem setFlag_latchWaiting (c : Bool) : (s.setFlag c).latchWaiting = s.latchWaiting := rfl
@[simp] theorem setFlag_latchTarget (c : Bool) : (s.setFlag c).latchTarget = s.latchTarget := rfl
@[simp] theorem setFlag_dt (c : Bool) : (s.setFlag c).dt = s.dt := rfl
@[simp] theorem setFlag_st (c : Bool) : (s.setFlag c).st = s.st := rfl
@[simp] theorem setFlag_dtPhase (c : Bool) : (s.setFlag c).dtPhase = s.dtPhase := rfl
@[simp] theorem setFlag_stPhase (c : Bool) : (s.setFlag c).stPhase = s.stPhase := rfl
@[simp] theorem setFlag_compat (c : Bool) : (s.setFlag c).compat = s.compat := rfl
@[simp] theorem setFlag_engineState (c : Bool) : (s.setFlag c).engineState = s.engineState := rfl
@[simp] theorem setFlag_faultReason (c : Bool) : (s.setFlag c).faultReason = s.faultReason := rfl
@[simp] theorem setFlag_draws (c : Bool) : (s.setFlag c).draws = s.draws := rfl
@[simp] theorem setFlag_outputs (c : Bool) : (s.setFlag c).outputs = s.outputs := rfl
@[simp] theorem setFlag_hostCalls (c : Bool) : (s.setFlag c).hostCalls = s.hostCalls := rfl

/-! ### Register reads -/

/-- A register reads as last written; the others keep their value (R20: no register aliases another). -/
theorem reg_setReg (x r : Reg) (b : Byte) : (s.setReg x b).reg r = if r = x then b else s.reg r := by
  simp only [reg, setReg_v, Vector.getElem_set, Fin.ext_iff, eq_comm]

@[simp] theorem reg_setReg_same (x : Reg) (b : Byte) : (s.setReg x b).reg x = b := by simp [reg_setReg]

theorem reg_setReg_other {x r : Reg} (h : r ≠ x) (b : Byte) : (s.setReg x b).reg r = s.reg r := by
  simp [reg_setReg, h]

/-- VF written as a flag reads as the flag; the others keep their value (R21). -/
theorem reg_setFlag (r : Reg) (c : Bool) : (s.setFlag c).reg r = if r = VF then flag c else s.reg r :=
  s.reg_setReg VF r (flag c)

@[simp] theorem reg_setRegs (w : Vector Byte 16) (r : Reg) : (s.setRegs w).reg r = w[r.val] := rfl

@[simp] theorem reg_setI (a : Word) (r : Reg) : (s.setI a).reg r = s.reg r := rfl
@[simp] theorem reg_setPc (a : Word) (r : Reg) : (s.setPc a).reg r = s.reg r := rfl
@[simp] theorem reg_setMem (m : Memory) (r : Reg) : (s.setMem m).reg r = s.reg r := rfl
@[simp] theorem reg_setDt (b : Byte) (r : Reg) : (s.setDt b).reg r = s.reg r := rfl
@[simp] theorem reg_setSt (b : Byte) (r : Reg) : (s.setSt b).reg r = s.reg r := rfl
@[simp] theorem reg_setScreen (f : Framebuffer) (r : Reg) : (s.setScreen f).reg r = s.reg r := rfl
@[simp] theorem reg_emit (o : Output) (r : Reg) : (s.emit o).reg r = s.reg r := rfl
@[simp] theorem reg_tookDraw (r : Reg) : (s.tookDraw).reg r = s.reg r := rfl
@[simp] theorem reg_push (a : Word) (r : Reg) : (s.push a).reg r = s.reg r := rfl
@[simp] theorem reg_dropTop (r : Reg) : (s.dropTop).reg r = s.reg r := rfl
@[simp] theorem reg_advance (r : Reg) : (s.advance).reg r = s.reg r := rfl
@[simp] theorem reg_skipIf (c : Bool) (r : Reg) : (s.skipIf c).reg r = s.reg r := rfl
@[simp] theorem reg_beginWait (x : Reg) (r : Reg) : (s.beginWait x).reg r = s.reg r := rfl
@[simp] theorem reg_endWait (r : Reg) : (s.endWait).reg r = s.reg r := rfl
@[simp] theorem reg_raise (f : Fault) (r : Reg) : (s.raise f).reg r = s.reg r := rfl

end Sys2Proof.Machine.State
end

