-- ==== Sys2Proof/Laws/Ops.lean ====
section
/-! SUPPORT. What each shared operation computes, in numbers; what each shared outcome answers; what a step can do. -/

namespace Sys2Proof.Machine

/-! ### Operands and flags in numbers -/

@[simp] theorem toNat_absolute (nnn : Addr12) : (absolute nnn).toNat = nnn.toNat := by
  have := nnn.isLt
  simp only [absolute, BitVec.toNat_setWidth]; omega

/-- The indexed target never wraps: at most 0x10FE (R117). -/
theorem toNat_indexedTarget (s : State) (nnn : Addr12) :
    (indexedTarget s nnn).toNat = nnn.toNat + (s.reg V0).toNat := by
  have := nnn.isLt
  have := (s.reg V0).isLt
  simp only [indexedTarget, BitVec.toNat_add, BitVec.toNat_setWidth]; omega

@[simp] theorem toNat_flag (b : Bool) : (flag b).toNat = b.toNat := by cases b <;> rfl

theorem toNat_indexSum (i : Word) (b : Byte) : (indexSum i b).toNat = (i.toNat + b.toNat) % 0x1000 := by
  simp only [indexSum, BitVec.toNat_ofNat]; omega

theorem toNat_glyphAddr (d : Byte) : (glyphAddr d).toNat = 5 * d.toNat := by
  have := d.isLt
  simp only [glyphAddr, Config.fontBase, Config.glyphLen, BitVec.toNat_ofNat]; omega

theorem toNat_outRight (b : Byte) : (outRight b).toNat = b.toNat % 2 := by
  simp only [outRight, BitVec.getLsbD, Nat.testBit_zero]
  rcases Nat.mod_two_eq_zero_or_one b.toNat with h | h <;> simp [h]

theorem toNat_outLeft (b : Byte) : (outLeft b).toNat = b.toNat / 128 := by
  have := b.isLt
  have h : b.toNat / 128 = 0 ∨ b.toNat / 128 = 1 := by omega
  simp only [outLeft, BitVec.getLsbD, Nat.testBit_eq_decide_div_mod_eq]
  rcases h with h | h <;> simp [h]

theorem toNat_half (b : Byte) : (b >>> 1).toNat = b.toNat / 2 := by
  simp [BitVec.toNat_ushiftRight, Nat.shiftRight_eq_div_pow]

theorem toNat_double (b : Byte) : (b <<< 1).toNat = b.toNat * 2 % 256 := by
  simp [BitVec.toNat_shiftLeft, Nat.shiftLeft_eq]

theorem blockBound_eq (s : State) (x : Reg) : blockBound s x = s.i.toNat + x.val + 1 := by
  simp only [blockBound, effAddr, blockLen]; omega

/-- Where the block transfer does not fault, I advances by X + 1 without wrapping (R144). -/
theorem toNat_blockBound (s : State) (x : Reg) (h : s.i.toNat + x.val + 1 ≤ 0xFFF) :
    (BitVec.ofNat 16 (blockBound s x)).toNat = s.i.toNat + x.val + 1 := by
  rw [blockBound_eq, BitVec.toNat_ofNat]; omega

@[simp] theorem length_blockBytes (s : State) (x : Reg) : (blockBytes s x).length = x.val + 1 := by
  have := x.isLt
  simp only [blockBytes, blockLen, List.length_take, Vector.length_toList]; omega

/-- The k-th byte a block store moves is V[k] (R144). -/
theorem getElem_blockBytes (s : State) (x k : Reg) (h : k ≤ x) :
    (blockBytes s x)[k.val]'(by have : k.val ≤ x.val := h; rw [length_blockBytes]; omega) = s.reg k := by
  simp [blockBytes, State.reg]

/-- A block load replaces V[0] to V[X] by memory bytes and keeps the rest (R145). -/
theorem getElem_blockRegs (s : State) (x k : Reg) :
    (blockRegs s x)[k.val] = if k ≤ x then s.mem.get (s.i.toNat + k.val) else s.reg k := by
  simp [blockRegs, effAddr, State.reg]

@[simp] theorem length_bcdDigits (b : Byte) : (bcdDigits b).length = 3 := rfl

/-! ### The decoder in a step -/

theorem decode_fetchBytes (s : State) : decode (fetchBytes s) =
    match decodeWord (fetchWord s) with
      | some i => .ok (i, [])
      | none => .error (.unrecognised (fetchWord s)) := rfl

theorem fetchExecute_some {s : State} {i : Instr} (h : decodeWord (fetchWord s) = some i) :
    fetchExecute s = exec i s := by
  simp [fetchExecute, decode_fetchBytes, h]

theorem fetchExecute_none {s : State} (h : decodeWord (fetchWord s) = none) :
    fetchExecute s = .next (skipUnrecognised (fetchWord s) s) := by
  simp [fetchExecute, decode_fetchBytes, h]

theorem pcFault_eq_none_iff (pc : Word) : pcFault pc = none ↔ pc.toNat ≤ 0xFFE ∧ pc.toNat % 2 = 0 := by
  simp only [pcFault, Config.lastFetch]
  split
  · simp; omega
  · split <;> simp <;> omega

/-! ### What an event can do -/

/-- Everything `step()` can do (R90): nothing in FAULTED or while the latch waits; the end of a wait; a pc fault; the
skip of an unrecognised word; an instruction. -/
theorem engineStep_cases {s t : State} (h : engineStep s = .next t) :
    (s.engineState = .faulted ∧ t = s) ∨
    (s.engineState = .awaitingKey ∧ s.latchWaiting = true ∧ t = s) ∨
    (s.engineState = .awaitingKey ∧ s.latchWaiting = false ∧ t = s.endWait) ∨
    (s.engineState = .running ∧ ∃ f, pcFault s.pc = some f ∧ t = s.raise f) ∨
    (s.engineState = .running ∧ pcFault s.pc = none ∧ decodeWord (fetchWord s) = none ∧
      t = skipUnrecognised (fetchWord s) s) ∨
    (s.engineState = .running ∧ pcFault s.pc = none ∧ ∃ i, decodeWord (fetchWord s) = some i ∧
      exec i s = .next t) := by
  unfold engineStep at h
  cases he : s.engineState <;> simp only [he] at h
  · unfold runningStep at h
    cases hp : pcFault s.pc with
    | some f => simp only [hp, takeFault, Host.Outcome.next.injEq] at h; simp [← h]
    | none =>
      simp only [hp] at h
      cases hd : decodeWord (fetchWord s) with
      | none => rw [fetchExecute_none hd] at h; simp_all
      | some i => rw [fetchExecute_some hd] at h; simp [h]
  · unfold waitingStep at h
    split at h <;> simp_all
  · simp_all

/-- Everything an event can do (R100): `step()`, at the state with the call taken, or one of the host's calls. -/
theorem step_cases {s t : State} (h : step s = .next t) :
    ((s.hostCalls = [] ∨ ∃ rest, s.hostCalls = .step :: rest) ∧
      engineStep { s with hostCalls := s.hostCalls.tail } = .next t) ∨
    (∃ e rest, s.hostCalls = .tick e :: rest ∧ t = tick e { s with hostCalls := rest }) ∨
    (∃ k p rest, s.hostCalls = .setKey k p :: rest ∧ t = setKey k p { s with hostCalls := rest }) ∨
    (∃ rest, s.hostCalls = .readFramebuffer :: rest ∧ t = clearDamaged { s with hostCalls := rest }) := by
  unfold step nextEvent at h
  cases hc : s.hostCalls with
  | nil =>
    rw [hc] at h
    refine .inl ⟨.inl rfl, ?_⟩
    have : { s with hostCalls := ([] : List HostCall).tail } = s := by cases s; simp_all
    exact this ▸ h
  | cons c rest =>
    rw [hc] at h
    cases c with
    | step => exact .inl ⟨.inr ⟨rest, rfl⟩, h⟩
    | tick e => cases h; exact .inr (.inl ⟨e, rest, rfl, rfl⟩)
    | setKey k p => cases h; exact .inr (.inr (.inl ⟨k, p, rest, rfl, rfl⟩))
    | readFramebuffer => cases h; exact .inr (.inr (.inr ⟨rest, rfl, rfl⟩))

end Sys2Proof.Machine
end

