-- ==== Sys2Proof/Laws/Exec.lean ====
section
/-! SUPPORT. Everything an instruction can do, said once: its updates, or a fault. -/

namespace Sys2Proof.Machine

open State

/-- The state an instruction leads to when it raises no fault: the updates its meaning makes, in order. -/
def effect (i : Instr) (s : State) : State :=
  match i with
  | .cls => (s.setScreen Framebuffer.clear).advance
  | .ret => s.dropTop.setPc s.top
  | .jp nnn => s.setPc (absolute nnn)
  | .call nnn => (s.push (s.pc + 2)).setPc (absolute nnn)
  | .seImm x nn => s.skipIf (s.reg x == nn)
  | .sneImm x nn => s.skipIf (s.reg x != nn)
  | .seReg x y => s.skipIf (s.reg x == s.reg y)
  | .ldImm x nn => (s.setReg x nn).advance
  | .addImm x nn => (s.setReg x (s.reg x + nn)).advance
  | .ldReg x y => (s.setReg x (s.reg y)).advance
  | .orReg x y => (s.setReg x (s.reg x ||| s.reg y)).advance
  | .andReg x y => (s.setReg x (s.reg x &&& s.reg y)).advance
  | .xorReg x y => (s.setReg x (s.reg x ^^^ s.reg y)).advance
  | .addReg x y => ((s.setReg x (s.reg x + s.reg y)).setFlag (carry (s.reg x) (s.reg y))).advance
  | .sub x y => ((s.setReg x (s.reg x - s.reg y)).setFlag (noBorrow (s.reg x) (s.reg y))).advance
  | .shr x y => match s.compat with
     | .modern => ((s.setReg x (s.reg x >>> 1)).setFlag (outRight (s.reg x))).advance
     | .legacy => (((s.setReg y (s.reg y >>> 1)).setReg x (s.reg y >>> 1)).setFlag (outRight (s.reg y))).advance
  | .subn x y => ((s.setReg x (s.reg y - s.reg x)).setFlag (noBorrow (s.reg y) (s.reg x))).advance
  | .shl x y => match s.compat with
     | .modern => ((s.setReg x (s.reg x <<< 1)).setFlag (outLeft (s.reg x))).advance
     | .legacy => (((s.setReg y (s.reg y <<< 1)).setReg x (s.reg y <<< 1)).setFlag (outLeft (s.reg y))).advance
  | .sneReg x y => s.skipIf (s.reg x != s.reg y)
  | .ldI nnn => (s.setI (absolute nnn)).advance
  | .jpV0 nnn => s.setPc (indexedTarget s nnn)
  | .rnd x nn => (s.tookDraw.setReg x (Config.draw8 s.draws &&& nn)).advance
  | .drw x y n => ((s.setScreen (drawn s x y n).fb).setFlag (drawn s x y n).collision).advance
  | .skp x => s.skipIf (keyPressed s (s.reg x))
  | .sknp x => s.skipIf (!keyPressed s (s.reg x))
  | .ldVxDT x => (s.setReg x s.dt).advance
  | .ldVxK x => s.beginWait x
  | .ldDTVx x => (s.setDt (s.reg x)).advance
  | .ldSTVx x => (s.setSt (s.reg x)).advance
  | .addI x => ((s.setI (indexSum s.i (s.reg x))).setFlag (indexOverflow s.i (s.reg x))).advance
  | .ldF x => (s.setI (glyphAddr (s.reg x))).advance
  | .ldB x => (s.setMem (s.mem.putAll (effAddr s 0) (bcdDigits (s.reg x)))).advance
  | .storeRegs x => ((s.setMem (s.mem.putAll (effAddr s 0) (blockBytes s x))).advanceI x).advance
  | .loadRegs x => ((s.setRegs (blockRegs s x)).advanceI x).advance

/-- An instruction makes its updates, or raises a fault and changes nothing else (R205). -/
theorem exec_effect_or_raise (i : Instr) (s : State) :
    exec i s = .next (effect i s) ∨ ∃ f, exec i s = .next (s.raise f) := by
  cases i
  case ret => simp only [exec, execRet]; split <;> [exact .inr ⟨_, rfl⟩; exact .inl rfl]
  case call => simp only [exec, execCall]; split <;> [exact .inl rfl; exact .inr ⟨_, rfl⟩]
  case shr => simp only [exec, execShr, shiftOutcome, effect]; cases s.compat <;> exact .inl rfl
  case shl => simp only [exec, execShl, shiftOutcome, effect]; cases s.compat <;> exact .inl rfl
  case drw => simp only [exec, execDrw]; split <;> [exact .inr ⟨_, rfl⟩; exact .inl rfl]
  case skp => simp only [exec, execSkp]; split <;> [exact .inr ⟨_, rfl⟩; exact .inl rfl]
  case sknp => simp only [exec, execSknp]; split <;> [exact .inr ⟨_, rfl⟩; exact .inl rfl]
  case ldF => simp only [exec, execLdF]; split <;> [exact .inr ⟨_, rfl⟩; exact .inl rfl]
  case ldB => simp only [exec, execLdB]; split <;> [exact .inr ⟨_, rfl⟩; exact .inl rfl]
  case storeRegs => simp only [exec, execStoreRegs]; split <;> [exact .inr ⟨_, rfl⟩; exact .inl rfl]
  case loadRegs => simp only [exec, execLoadRegs]; split <;> [exact .inr ⟨_, rfl⟩; exact .inl rfl]
  all_goals exact .inl rfl

/-- The same, of a next state. -/
theorem exec_cases {i : Instr} {s t : State} (h : exec i s = .next t) : t = effect i s ∨ ∃ f, t = s.raise f := by
  rcases exec_effect_or_raise i s with e | ⟨f, e⟩ <;> rw [e] at h <;> cases h
  · exact .inl rfl
  · exact .inr ⟨f, rfl⟩

/-- Only the key wait changes the engine state without a fault (R162, R200). -/
theorem effect_engineState (i : Instr) (s : State) :
    (effect i s).engineState = match i with | .ldVxK _ => .awaitingKey | _ => s.engineState := by
  cases i <;> first | rfl | (simp only [effect]; cases s.compat <;> rfl)

/-- What no instruction changes when it raises no fault. -/
theorem effect_keeps (i : Instr) (s : State) : (effect i s).keys = s.keys ∧ (effect i s).compat = s.compat ∧
    (effect i s).faultReason = s.faultReason ∧ (effect i s).dtPhase = s.dtPhase ∧
    (effect i s).stPhase = s.stPhase ∧ (effect i s).outputs = s.outputs ∧
    (effect i s).hostCalls = s.hostCalls := by
  cases i <;> simp only [effect] <;> first | (split <;> simp) | simp [advanceI]

/-- No instruction reads the host's calls. -/
theorem exec_hostCalls (i : Instr) (s : State) (calls : List HostCall) :
    ∃ t, exec i s = .next t ∧ exec i { s with hostCalls := calls } = .next { t with hostCalls := calls } := by
  cases i
  case ret =>
    by_cases h : s.sp = 0
    · exact ⟨_, if_pos h, if_pos h⟩
    · exact ⟨_, if_neg h, if_neg h⟩
  case call nnn =>
    by_cases h : s.sp.toNat < s.stackCap
    · exact ⟨_, if_pos h, if_pos h⟩
    · exact ⟨_, if_neg h, if_neg h⟩
  case shr x y => obtain ⟨⟩ := s; next c _ _ _ _ _ => cases c <;> exact ⟨_, rfl, rfl⟩
  case shl x y => obtain ⟨⟩ := s; next c _ _ _ _ _ => cases c <;> exact ⟨_, rfl, rfl⟩
  case drw x y n =>
    by_cases h : (decide (0 < n) && outOfRange (spriteEnd s n)) = true
    · exact ⟨_, if_pos h, if_pos h⟩
    · exact ⟨_, if_neg h, if_neg h⟩
  case skp x =>
    by_cases h : indexTooLarge (s.reg x) = true
    · exact ⟨_, if_pos h, if_pos h⟩
    · exact ⟨_, if_neg h, if_neg h⟩
  case sknp x =>
    by_cases h : indexTooLarge (s.reg x) = true
    · exact ⟨_, if_pos h, if_pos h⟩
    · exact ⟨_, if_neg h, if_neg h⟩
  case ldF x =>
    by_cases h : indexTooLarge (s.reg x) = true
    · exact ⟨_, if_pos h, if_pos h⟩
    · exact ⟨_, if_neg h, if_neg h⟩
  case ldB x =>
    by_cases h : outOfRange (effAddr s 2) = true
    · exact ⟨_, if_pos h, if_pos h⟩
    · exact ⟨_, if_neg h, if_neg h⟩
  case storeRegs x =>
    by_cases h : outOfRange (blockBound s x) = true
    · exact ⟨_, if_pos h, if_pos h⟩
    · exact ⟨_, if_neg h, if_neg h⟩
  case loadRegs x =>
    by_cases h : outOfRange (blockBound s x) = true
    · exact ⟨_, if_pos h, if_pos h⟩
    · exact ⟨_, if_neg h, if_neg h⟩
  all_goals exact ⟨_, rfl, rfl⟩

/-- A run takes its steps one at a time. -/
theorem run_succ {s s' : State} (h : step s = .next s') (k : Nat) :
    Host.Core.run Sys2Proof.core (k + 1) s = Host.Core.run Sys2Proof.core k s' := by
  have h' : Sys2Proof.core.step s = .next s' := h
  simp only [Host.Core.run, h']

end Sys2Proof.Machine
end

