-- ==== Sys2Proof/Laws/Frame.lean ====
section
/-! SUPPORT. The frame of each named update, one lemma each, so that a meaning's frame is the chain of its updates. -/

namespace Sys2Proof.Machine.ChangesOnly

open State

variable {w : Touches} {s t : State}

theorem refl (w : Touches) (s : State) : ChangesOnly w s s := by constructor <;> intros <;> simp

theorem setReg (h : ChangesOnly w s t) {x : Reg} (b : Byte) (hx : x ∈ w.regs) : ChangesOnly w s (t.setReg x b) :=
  { h with regs := fun r hr => (reg_setReg_other t (fun he => hr (by rw [he]; exact hx)) b).trans (h.regs r hr) }

theorem setFlag (h : ChangesOnly w s t) (c : Bool) (hx : (15 : Reg) ∈ w.regs) : ChangesOnly w s (t.setFlag c) :=
  h.setReg (flag c) hx

theorem setRegs (h : ChangesOnly w s t) (v : Vector Byte 16) (hv : ∀ r : Reg, r ∉ w.regs → v[r.val] = s.reg r) :
    ChangesOnly w s (t.setRegs v) :=
  { h with regs := fun r hr => (reg_setRegs t v r).trans (hv r hr) }

theorem setI (h : ChangesOnly w s t) (a : Word) (hw : w.index = true) : ChangesOnly w s (t.setI a) :=
  { h with index := fun he => by simp [hw] at he }

theorem setPc (h : ChangesOnly w s t) (a : Word) : ChangesOnly w s (t.setPc a) := { h with }

theorem advance (h : ChangesOnly w s t) : ChangesOnly w s t.advance := { h with }

theorem skipIf (h : ChangesOnly w s t) (c : Bool) : ChangesOnly w s (t.skipIf c) := { h with }

theorem setMem (h : ChangesOnly w s t) (m : Memory) (hm : ∀ a, a ∉ w.stored → m.get a = s.mem.get a) :
    ChangesOnly w s (t.setMem m) := { h with mem := hm }

theorem setDt (h : ChangesOnly w s t) (b : Byte) (hw : w.dt = true) : ChangesOnly w s (t.setDt b) :=
  { h with dt := fun he => by simp [hw] at he }

theorem setSt (h : ChangesOnly w s t) (b : Byte) (hw : w.st = true) : ChangesOnly w s (t.setSt b) :=
  { h with st := fun he => by simp [hw] at he }

theorem setScreen (h : ChangesOnly w s t) (f : Framebuffer) (hw : w.screen = true) :
    ChangesOnly w s (t.setScreen f) := { h with screen := fun he => by simp [hw] at he }

theorem tookDraw (h : ChangesOnly w s t) (hw : w.draw = true) : ChangesOnly w s t.tookDraw :=
  { h with draws := fun he => by simp [hw] at he }

theorem push (h : ChangesOnly w s t) (a : Word) (hw : w.stack = true) : ChangesOnly w s (t.push a) :=
  { h with stack := fun he => by simp [hw] at he }

theorem dropTop (h : ChangesOnly w s t) (hw : w.stack = true) : ChangesOnly w s t.dropTop :=
  { h with stack := fun he => by simp [hw] at he }

theorem beginWait (h : ChangesOnly w s t) (x : Reg) (hw : w.latch = true) : ChangesOnly w s (t.beginWait x) :=
  { h with latch := fun he => by simp [hw] at he }

end Sys2Proof.Machine.ChangesOnly
end

