-- ==== Sys2Proof/Laws/Host.lean ====
section
/-! SUPPORT. Everything the host's calls can do: what a tick, a key event and an initialisation change. -/

namespace Sys2Proof.Machine

theorem toNat_pred {b : Byte} (h : b ≠ 0) : (b - 1).toNat + 1 = b.toNat := by
  have : b.toNat ≠ 0 := fun h' => h (BitVec.eq_of_toNat_eq h')
  rw [BitVec.toNat_sub]; simp; omega

/-- The delay timer's share of a tick changes DT, at most down by one, and its phase (R210). -/
theorem tickDelay_changes (e : Rat) (s : State) :
    ∃ a c, tickDelay e s = { s with dt := a, dtPhase := c } ∧ (a = s.dt ∨ a.toNat + 1 = s.dt.toNat) := by
  unfold tickDelay delayTick
  by_cases h : Config.timerPeriod ≤ s.dtPhase + e
  · by_cases h0 : s.dt = 0
    · exact ⟨s.dt, 0, by simp only [if_pos h, if_pos h0], .inl rfl⟩
    · exact ⟨s.dt - 1, 0, by simp only [if_pos h, if_neg h0]; rfl, .inr (toNat_pred h0)⟩
  · exact ⟨s.dt, s.dtPhase + e, by simp only [if_neg h], .inl rfl⟩

/-- The sound timer's share of a tick changes ST, at most down by one, its phase and the events (R210, R212). -/
theorem tickSound_changes (e : Rat) (s : State) :
    ∃ b d o, tickSound e s = { s with st := b, stPhase := d, outputs := o } ∧
      (b = s.st ∨ b.toNat + 1 = s.st.toNat) := by
  unfold tickSound soundTick
  by_cases h : Config.timerPeriod ≤ s.stPhase + e
  · by_cases h0 : s.st = 0
    · exact ⟨s.st, 0, s.outputs, by simp only [if_pos h, if_pos h0], .inl rfl⟩
    · by_cases h1 : s.st = 1
      · exact ⟨0, 0, .stopTone :: s.outputs, by simp only [if_pos h, if_neg h0, if_pos h1]; rfl,
          .inr (by rw [h1]; rfl)⟩
      · exact ⟨s.st - 1, 0, s.outputs, by simp only [if_pos h, if_neg h0, if_neg h1]; rfl, .inr (toNat_pred h0)⟩
  · exact ⟨s.st, s.stPhase + e, s.outputs, by simp only [if_neg h], .inl rfl⟩

/-- A tick changes the timers, each at most down by one, the phases and the events, and nothing else (R210). -/
theorem tick_changes (e : Rat) (s : State) :
    ∃ a b c d o, tick e s = { s with dt := a, st := b, dtPhase := c, stPhase := d, outputs := o } ∧
      (a = s.dt ∨ a.toNat + 1 = s.dt.toNat) ∧ (b = s.st ∨ b.toNat + 1 = s.st.toNat) := by
  unfold tick
  split
  · exact ⟨s.dt, s.st, s.dtPhase, s.stPhase, s.outputs, rfl, .inl rfl, .inl rfl⟩
  · obtain ⟨a, c, hd, ha⟩ := tickDelay_changes e s
    obtain ⟨b, d, o, hs, hb⟩ := tickSound_changes e (tickDelay e s)
    rw [hd] at hs hb
    exact ⟨a, b, c, d, o, by rw [hd, hs], ha, hb⟩

/-- A key event changes the keys, and perhaps one register and the latch's waiting flag, which it never sets (R213). -/
theorem setKey_changes (k : Int) (p : Bool) (s : State) :
    ∃ a b c, setKey k p s = { s with keys := a, v := b, latchWaiting := c } ∧ (c = true → s.latchWaiting = true) := by
  unfold setKey
  split
  · unfold latchKey
    dsimp only
    split
    · exact ⟨_, _, _, rfl, nofun⟩
    · exact ⟨_, _, _, rfl, id⟩
  · exact ⟨_, _, _, rfl, id⟩

/-- A successful initialisation is `State.reset` but for the stack's capacity, memory and `COMPAT` (R40, R240). -/
theorem initMachine_ok {p : Params} {rom : List Byte} {c : Compat} {s : State} (h : initMachine p rom c = .ok s) :
    rom.length ≤ 3584 ∧
      s = { State.reset with stack := List.replicate p.stackCap 0, mem := loadedMemory p rom, compat := c } := by
  unfold initMachine at h
  split at h
  · cases h
  · next hl =>
    simp only [Config.memSize, Config.progBase] at hl
    cases h
    exact ⟨by omega, rfl⟩

end Sys2Proof.Machine
end

