-- ==== Sys2Proof/Laws/PerInstr.lean ====
section
/-! SUPPORT. A statement about every instruction as syntax, one lemma per constructor: the word of an instruction selects
the instruction's own row of the opcode map (spec/30_encoding.md R74, R75). -/

namespace Sys2Proof.Laws

/-! ### Masks act field by field -/

theorem packNNN_and (f f' : BitVec 4) (a a' : Addr12) :
    packNNN f a &&& packNNN f' a' = packNNN (f &&& f') (a &&& a') := BitVec.and_append

theorem packXNN_and (f f' x x' : BitVec 4) (a a' : Byte) :
    packXNN f x a &&& packXNN f' x' a' = packXNN (f &&& f') (x &&& x') (a &&& a') :=
  BitVec.and_append.trans (congrArg (· ++ (a &&& a')) BitVec.and_append)

theorem packXYN_and (f f' x x' y y' n n' : BitVec 4) :
    packXYN f x y n &&& packXYN f' x' y' n' = packXYN (f &&& f') (x &&& x') (y &&& y') (n &&& n') :=
  BitVec.and_append.trans (congrArg (· ++ (n &&& n'))
    (BitVec.and_append.trans (congrArg (· ++ (y &&& y')) BitVec.and_append)))

/-! ### The row of a packed word, format by format (R72) -/

theorem selected_NNN {m : String} {p : Word} (f : BitVec 4) (a : Addr12) (hp : packNNN f 0 = p) :
    (OpcodeRow.mk m 0xF000 p).selectedBy (packNNN f a) = true := by
  have : packNNN f a &&& packNNN 0xF#4 0#12 = p := by
    rw [packNNN_and, ← hp, BitVec.and_zero, show f &&& 0xF#4 = f from BitVec.and_allOnes]
    rfl
  exact beq_iff_eq.2 this

theorem selected_XNN {m : String} {p : Word} (f x : BitVec 4) (a : Byte) (hp : packXNN f 0 0 = p) :
    (OpcodeRow.mk m 0xF000 p).selectedBy (packXNN f x a) = true := by
  have : packXNN f x a &&& packXNN 0xF#4 0#4 0#8 = p := by
    rw [packXNN_and, ← hp, BitVec.and_zero, BitVec.and_zero, show f &&& 0xF#4 = f from BitVec.and_allOnes]
    rfl
  exact beq_iff_eq.2 this

theorem selected_X {m : String} {p : Word} (f x : BitVec 4) (a : Byte) (hp : packXNN f 0 a = p) :
    (OpcodeRow.mk m 0xF0FF p).selectedBy (packXNN f x a) = true := by
  have : packXNN f x a &&& packXNN 0xF#4 0#4 0xFF#8 = p := by
    rw [packXNN_and, ← hp, BitVec.and_zero, show f &&& 0xF#4 = f from BitVec.and_allOnes,
      show a &&& 0xFF#8 = a from BitVec.and_allOnes]
    rfl
  exact beq_iff_eq.2 this

theorem selected_XY {m : String} {p : Word} (f x y n : BitVec 4) (hp : packXYN f 0 0 n = p) :
    (OpcodeRow.mk m 0xF00F p).selectedBy (packXYN f x y n) = true := by
  have : packXYN f x y n &&& packXYN 0xF#4 0#4 0#4 0xF#4 = p := by
    rw [packXYN_and, ← hp, BitVec.and_zero, BitVec.and_zero, show f &&& 0xF#4 = f from BitVec.and_allOnes,
      show n &&& 0xF#4 = n from BitVec.and_allOnes]
    rfl
  exact beq_iff_eq.2 this

theorem selected_XYN {m : String} {p : Word} (f x y n : BitVec 4) (hp : packXYN f 0 0 0 = p) :
    (OpcodeRow.mk m 0xF000 p).selectedBy (packXYN f x y n) = true := by
  have : packXYN f x y n &&& packXYN 0xF#4 0#4 0#4 0#4 = p := by
    rw [packXYN_and, ← hp, BitVec.and_zero, BitVec.and_zero, BitVec.and_zero,
      show f &&& 0xF#4 = f from BitVec.and_allOnes]
    rfl
  exact beq_iff_eq.2 this

namespace EncodedWordInRow

/-- The word of an instruction selects the instruction's own row. -/
def Statement (i : Instr) : Prop := i.row.selectedBy (encode i) = true

theorem cls : Statement .cls := rfl
theorem ret : Statement .ret := rfl
theorem jp (nnn : Addr12) : Statement (.jp nnn) := selected_NNN (p := 0x1000) 0x1#4 nnn rfl
theorem call (nnn : Addr12) : Statement (.call nnn) := selected_NNN (p := 0x2000) 0x2#4 nnn rfl
theorem seImm (x : Reg) (nn : Byte) : Statement (.seImm x nn) := selected_XNN (p := 0x3000) 0x3#4 _ nn rfl
theorem sneImm (x : Reg) (nn : Byte) : Statement (.sneImm x nn) := selected_XNN (p := 0x4000) 0x4#4 _ nn rfl
theorem seReg (x y : Reg) : Statement (.seReg x y) := selected_XY (p := 0x5000) 0x5#4 _ _ 0x0#4 rfl
theorem ldImm (x : Reg) (nn : Byte) : Statement (.ldImm x nn) := selected_XNN (p := 0x6000) 0x6#4 _ nn rfl
theorem addImm (x : Reg) (nn : Byte) : Statement (.addImm x nn) := selected_XNN (p := 0x7000) 0x7#4 _ nn rfl
theorem ldReg (x y : Reg) : Statement (.ldReg x y) := selected_XY (p := 0x8000) 0x8#4 _ _ 0x0#4 rfl
theorem orReg (x y : Reg) : Statement (.orReg x y) := selected_XY (p := 0x8001) 0x8#4 _ _ 0x1#4 rfl
theorem andReg (x y : Reg) : Statement (.andReg x y) := selected_XY (p := 0x8002) 0x8#4 _ _ 0x2#4 rfl
theorem xorReg (x y : Reg) : Statement (.xorReg x y) := selected_XY (p := 0x8003) 0x8#4 _ _ 0x3#4 rfl
theorem addReg (x y : Reg) : Statement (.addReg x y) := selected_XY (p := 0x8004) 0x8#4 _ _ 0x4#4 rfl
theorem sub (x y : Reg) : Statement (.sub x y) := selected_XY (p := 0x8005) 0x8#4 _ _ 0x5#4 rfl
theorem shr (x y : Reg) : Statement (.shr x y) := selected_XY (p := 0x8006) 0x8#4 _ _ 0x6#4 rfl
theorem subn (x y : Reg) : Statement (.subn x y) := selected_XY (p := 0x8007) 0x8#4 _ _ 0x7#4 rfl
theorem shl (x y : Reg) : Statement (.shl x y) := selected_XY (p := 0x800E) 0x8#4 _ _ 0xE#4 rfl
theorem sneReg (x y : Reg) : Statement (.sneReg x y) := selected_XY (p := 0x9000) 0x9#4 _ _ 0x0#4 rfl
theorem ldI (nnn : Addr12) : Statement (.ldI nnn) := selected_NNN (p := 0xA000) 0xA#4 nnn rfl
theorem jpV0 (nnn : Addr12) : Statement (.jpV0 nnn) := selected_NNN (p := 0xB000) 0xB#4 nnn rfl
theorem rnd (x : Reg) (nn : Byte) : Statement (.rnd x nn) := selected_XNN (p := 0xC000) 0xC#4 _ nn rfl
theorem drw (x y : Reg) (n : Nat) : Statement (.drw x y n) := selected_XYN (p := 0xD000) 0xD#4 _ _ _ rfl
theorem skp (x : Reg) : Statement (.skp x) := selected_X (p := 0xE09E) 0xE#4 _ 0x9E#8 rfl
theorem sknp (x : Reg) : Statement (.sknp x) := selected_X (p := 0xE0A1) 0xE#4 _ 0xA1#8 rfl
theorem ldVxDT (x : Reg) : Statement (.ldVxDT x) := selected_X (p := 0xF007) 0xF#4 _ 0x07#8 rfl
theorem ldVxK (x : Reg) : Statement (.ldVxK x) := selected_X (p := 0xF00A) 0xF#4 _ 0x0A#8 rfl
theorem ldDTVx (x : Reg) : Statement (.ldDTVx x) := selected_X (p := 0xF015) 0xF#4 _ 0x15#8 rfl
theorem ldSTVx (x : Reg) : Statement (.ldSTVx x) := selected_X (p := 0xF018) 0xF#4 _ 0x18#8 rfl
theorem addI (x : Reg) : Statement (.addI x) := selected_X (p := 0xF01E) 0xF#4 _ 0x1E#8 rfl
theorem ldF (x : Reg) : Statement (.ldF x) := selected_X (p := 0xF029) 0xF#4 _ 0x29#8 rfl
theorem ldB (x : Reg) : Statement (.ldB x) := selected_X (p := 0xF033) 0xF#4 _ 0x33#8 rfl
theorem storeRegs (x : Reg) : Statement (.storeRegs x) := selected_X (p := 0xF055) 0xF#4 _ 0x55#8 rfl
theorem loadRegs (x : Reg) : Statement (.loadRegs x) := selected_X (p := 0xF065) 0xF#4 _ 0x65#8 rfl

end EncodedWordInRow
end Sys2Proof.Laws
end

