-- ==== Sys2Proof/Tests/Slice0.lean ====
section
/-! SUPPORT. Small tests with expected values from spec/ (its encodings R72, its vectors in 95_test_vectors.md), and for
every statement with hypotheses a concrete state and operands that meet them together, at the boundaries of each clause. -/

namespace Sys2Proof.Tests

open Sys2Proof.Machine

/-! ## Well-formedness -/

theorem test_wf_accepts_fifteen_rows : Instr.wellFormed (.drw 0 0 15) = true := by decide
theorem test_wf_refuses_sixteen_rows : Instr.wellFormed (.drw 0 0 16) = false := by decide

/-! ## Decoding: every constructor, its word written out from R72's pattern, family first -/

theorem test_decode_family_0 :
    decodeWord 0b0000000011100000 = some .cls ∧ decodeWord 0b0000000011101110 = some .ret := by decide

theorem test_decode_jumps :
    decodeWord 0b0001101010111100 = some (.jp 0xABC) ∧ decodeWord 0b0010001000010000 = some (.call 0x210) ∧
    decodeWord 0b1011001100000001 = some (.jpV0 0x301) := by decide

theorem test_decode_skips :
    decodeWord 0b0011101000010010 = some (.seImm 10 0x12) ∧ decodeWord 0b0100000111111110 = some (.sneImm 1 0xFE) ∧
    decodeWord 0b0101000100100000 = some (.seReg 1 2) ∧ decodeWord 0b1001111000110000 = some (.sneReg 14 3) := by decide

theorem test_decode_immediates :
    decodeWord 0b0110001010011101 = some (.ldImm 2 0x9D) ∧ decodeWord 0b0111000111111111 = some (.addImm 1 0xFF) ∧
    decodeWord 0b1010001100000000 = some (.ldI 0x300) ∧ decodeWord 0b1100000111110000 = some (.rnd 1 0xF0) := by decide

theorem test_decode_family_8 :
    decodeWord 0b1000010111000000 = some (.ldReg 5 12) ∧ decodeWord 0b1000010111000001 = some (.orReg 5 12) ∧
    decodeWord 0b1000010111000010 = some (.andReg 5 12) ∧ decodeWord 0b1000010111000011 = some (.xorReg 5 12) ∧
    decodeWord 0b1000010111000100 = some (.addReg 5 12) ∧ decodeWord 0b1000010111000101 = some (.sub 5 12) ∧
    decodeWord 0b1000010111000110 = some (.shr 5 12) ∧ decodeWord 0b1000010111000111 = some (.subn 5 12) ∧
    decodeWord 0b1000010111001110 = some (.shl 5 12) := by decide

theorem test_decode_draw : decodeWord 0b1101000011110101 = some (.drw 0 15 5) := by decide

theorem test_decode_family_E :
    decodeWord 0b1110100110011110 = some (.skp 9) ∧ decodeWord 0b1110100110100001 = some (.sknp 9) := by decide

theorem test_decode_family_F :
    decodeWord 0b1111010000000111 = some (.ldVxDT 4) ∧ decodeWord 0b1111001100001010 = some (.ldVxK 3) ∧
    decodeWord 0b1111001100010101 = some (.ldDTVx 3) ∧ decodeWord 0b1111000000011000 = some (.ldSTVx 0) ∧
    decodeWord 0b1111111100011110 = some (.addI 15) ∧ decodeWord 0b1111000000101001 = some (.ldF 0) ∧
    decodeWord 0b1111001000110011 = some (.ldB 2) ∧ decodeWord 0b1111001001010101 = some (.storeRegs 2) ∧
    decodeWord 0b1111001001100101 = some (.loadRegs 2) := by decide

/-- Words of 95_test_vectors.md 2.1 that are no instruction. -/
theorem test_decode_unrecognised :
    [0x0000#16, 0x0123#16, 0x00E1#16, 0x01E0#16, 0x5121#16, 0x9125#16, 0x8018#16, 0x801F#16, 0xE09F#16, 0xF000#16,
      0xF3FF#16].map decodeWord = List.replicate 11 none := by decide

theorem test_table_word : decodeTableWord 16 0x2210 = some (.call 0x210) ∧ decodeTableWord 16 0x0000 = none := by decide

/-- The map has R75's 34 rows. -/
theorem test_opcode_map_has_34_rows : opcodeMap.length = 34 := by decide

/-! ## One step, from the vectors of spec/95_test_vectors.md -/

/-- The start state of the vectors: the word at 0x200 of the reset state, VF = 0xEE, then the registers given. -/
def start (w : Nat) (rs : List (Reg × Byte)) : State :=
  rs.foldl (fun s p => s.setReg p.1 p.2) ((State.reset.withFetchWord 16 w).setReg VF 0xEE)

/-- What a part of the state is after the next step. -/
def after {α : Type} (s : State) (f : State → α) : Option α := (nextOf (step s)).map f

/-- A part of the state after a call of `exec`. -/
def did {α : Type} (o : Host.Outcome State Fault Refusal) (f : State → α) : Option α := (nextOf o).map f

/-- Three consecutive bytes of memory. -/
def three (s : State) (a : Nat) : Byte × Byte × Byte := (s.mem.get a, s.mem.get (a + 1), s.mem.get (a + 2))

/-- The engine state and the fault reason. -/
def engine (s : State) : EngineState × Option Fault := (s.engineState, s.faultReason)

theorem test_reset_memory_is_canonical : Memory.wf State.reset.mem := Memory.wf_nil

/-- `State.reset` is what initialisation gives for an empty ROM with the default parameters (R240). -/
theorem test_reset_is_empty_initialisation : (initMachine {} [] .modern).toOption = some State.reset := by
  decide +kernel

theorem test_reset_font : State.reset.mem.get 0 = 0xF0 ∧ State.reset.mem.get 0x4F = 0x80 ∧
    State.reset.mem.get 0x50 = 0 := by decide

theorem test_unrecognised_is_skipped : after (start 0x0123 []) (fun t => (t.pc, t.outputs, t.engineState)) =
    some (0x202, [.unrecognisedOpcode 0x200 0x0123], .running) := by decide

theorem test_fetch_is_big_endian : after (start 0xA123 []) (fun t => (t.i, t.pc)) = some (0x123, 0x202) := by decide

theorem test_pc_range_before_parity : after { State.reset with pc := 0x0FFF } engine =
    some (.faulted, some (.pcOutOfRange 0x0FFF)) := by decide

theorem test_pc_odd : after { State.reset with pc := 0x0201 } engine =
    some (.faulted, some (.pcOdd 0x0201)) := by decide

theorem test_fault_codes : [Fault.pcOutOfRange 0, .pcOdd 0, .memOutOfRange 0, .stackOverflow, .stackUnderflow,
    .keyIndexOutOfRange 0, .fontIndexOutOfRange 0].map Fault.code = [1, 2, 3, 4, 5, 6, 7] := by decide

theorem test_jp : after (start 0x1204 []) (·.pc) = some 0x204 := by decide

theorem test_call : after (start 0x2210 []) (fun t => (t.stack[0]?, t.sp, t.pc)) =
    some (some 0x0202, 1, 0x210) := by decide
theorem test_call_full : after { start 0x2300 [] with sp := 16 } (fun t => (engine t, t.pc, t.sp)) =
    some ((.faulted, some .stackOverflow), 0x200, 16) := by decide

theorem test_ret : after { start 0x00EE [] with sp := 1, stack := 0x0206 :: List.replicate 15 0 }
    (fun t => (t.sp, t.pc)) = some (0, 0x206) := by decide
theorem test_ret_empty : after (start 0x00EE []) (fun t => (engine t, t.pc, t.sp)) =
    some ((.faulted, some .stackUnderflow), 0x200, 0) := by decide

theorem test_se_imm : after (start 0x3012 [(0, 0x12)]) (·.pc) = some 0x204 ∧
    after (start 0x3013 [(0, 0x12)]) (·.pc) = some 0x202 := by decide
theorem test_sne_imm : after (start 0x4012 [(0, 0x12)]) (·.pc) = some 0x202 ∧
    after (start 0x4013 [(0, 0x12)]) (·.pc) = some 0x204 := by decide
theorem test_se_reg : after (start 0x5120 [(1, 7), (2, 7)]) (·.pc) = some 0x204 ∧
    after (start 0x5120 [(1, 7), (2, 8)]) (·.pc) = some 0x202 := by decide
theorem test_sne_reg : after (start 0x9120 [(1, 7), (2, 8)]) (·.pc) = some 0x204 ∧
    after (start 0x9330 [(3, 9)]) (·.pc) = some 0x202 := by decide
theorem test_jp_v0 : after (start 0xBFFF [(0, 0xFF)]) (fun t => (t.pc, t.reg 15)) = some (0x10FE, 0xEE) ∧
    after (start 0xB300 [(0, 2), (3, 0x40)]) (·.pc) = some 0x302 := by decide

theorem test_ld_imm : after (start 0x629D []) (fun t => (t.reg 2, t.reg 15)) = some (0x9D, 0xEE) := by decide
theorem test_add_imm : after (start 0x7002 [(0, 0xFF)]) (fun t => (t.reg 0, t.reg 15)) = some (0x01, 0xEE) := by decide
theorem test_ld_reg : after (start 0x8010 [(1, 0x2A)]) (fun t => (t.reg 0, t.reg 1)) = some (0x2A, 0x2A) := by decide
theorem test_or : after (start 0x8011 [(0, 0xF0), (1, 0x0F)]) (fun t => (t.reg 0, t.reg 15)) =
    some (0xFF, 0xEE) := by decide
theorem test_and : after (start 0x8012 [(0, 0xF0), (1, 0x3C)]) (fun t => (t.reg 0, t.reg 15)) =
    some (0x30, 0xEE) := by decide
theorem test_xor : after (start 0x8013 [(0, 0xFF), (1, 0x0F)]) (fun t => (t.reg 0, t.reg 15)) =
    some (0xF0, 0xEE) := by decide
theorem test_add : after (start 0x8014 [(0, 0xFF), (1, 0x01)]) (fun t => (t.reg 0, t.reg 15)) = some (0, 1) ∧
    after (start 0x8014 [(0, 0x80), (1, 0x7F)]) (fun t => (t.reg 0, t.reg 15)) = some (0xFF, 0) := by decide
theorem test_add_flag_register : after (start 0x8F14 [(15, 0x10), (1, 0x20)]) (·.reg 15) = some 0 ∧
    after (start 0x80F4 [(0, 0xFF), (15, 0x02)]) (fun t => (t.reg 0, t.reg 15)) = some (1, 1) := by decide
theorem test_sub : after (start 0x8015 [(0, 5), (1, 7)]) (fun t => (t.reg 0, t.reg 15)) = some (0xFE, 0) ∧
    after (start 0x8015 [(0, 7), (1, 7)]) (fun t => (t.reg 0, t.reg 15)) = some (0, 1) := by decide
theorem test_subn : after (start 0x8017 [(0, 5), (1, 7)]) (fun t => (t.reg 0, t.reg 15, t.reg 1)) =
    some (2, 1, 7) := by decide
theorem test_shr_modern : after (start 0x8016 [(0, 0x05), (1, 0x77)]) (fun t => (t.reg 0, t.reg 1, t.reg 15)) =
    some (0x02, 0x77, 1) := by decide
theorem test_shr_legacy : after { start 0x8016 [(0, 0x77), (1, 0x05)] with compat := .legacy }
    (fun t => (t.reg 0, t.reg 1, t.reg 15)) = some (0x02, 0x02, 1) := by decide
theorem test_shl_modern : after (start 0x801E [(0, 0x81)]) (fun t => (t.reg 0, t.reg 15)) = some (0x02, 1) := by decide
theorem test_shl_legacy : after { start 0x801E [(0, 0xFF), (1, 0x21)] with compat := .legacy }
    (fun t => (t.reg 0, t.reg 1, t.reg 15)) = some (0x42, 0x42, 0) := by decide
/-- The draw itself is free: only the masked bits are known. -/
theorem test_rnd_zero_mask : did (exec (.rnd 0 0) (start 0xC000 [(0, 5)])) (·.draws) = some 1 := by decide

theorem test_ld_i : after (start 0xAFFF []) (·.i) = some 0xFFF := by decide
theorem test_add_i : after { start 0xF01E [(0, 3)] with i := 0xFFE } (fun t => (t.i, t.reg 15)) = some (0x001, 1) ∧
    after { start 0xF01E [(0, 0x0F)] with i := 0xFF0 } (fun t => (t.i, t.reg 15)) = some (0xFFF, 0) := by decide
theorem test_ld_f : after (start 0xF029 [(0, 0x0A)]) (·.i) = some 0x032 ∧
    after (start 0xF029 [(0, 0x10)]) engine = some (.faulted, some (.fontIndexOutOfRange 0x10)) := by decide
theorem test_bcd : after { start 0xF233 [(2, 0x9D)] with i := 0x300 } (fun t => (three t 0x300, t.reg 2, t.i)) =
    some ((1, 5, 7), 0x9D, 0x300) := by decide
theorem test_bcd_bound : after { start 0xF033 [(0, 99)] with i := 0xFFD } (fun t => three t 0xFFD) = some (0, 9, 9) ∧
    after { start 0xF033 [(0, 99)] with i := 0xFFE } engine = some (.faulted, some (.memOutOfRange 0x1000)) := by decide
theorem test_block_store : after { start 0xF255 [(0, 0xAA), (1, 0xBB), (2, 0xCC)] with i := 0xFFC }
    (fun t => (three t 0xFFC, t.i)) = some ((0xAA, 0xBB, 0xCC), 0xFFF) := by decide
theorem test_block_store_bound : after { start 0xF055 [] with i := 0xFFF } engine =
    some (.faulted, some (.memOutOfRange 0x1000)) := by decide
theorem test_block_load : after { start 0xF265 [(3, 0x33)] with i := 0x002 }
    (fun t => (t.reg 0, t.reg 1, t.reg 2, t.reg 3, t.i)) = some (0x90, 0x90, 0xF0, 0x33, 0x005) := by decide

/-- Glyph 0, F0 90 90 90 F0, drawn at (0, 0): corners set, inside unset (S4). -/
theorem test_draw_glyph : after (start 0xD015 []) (fun t => ((Framebuffer.pixel t.fb 0 0, Framebuffer.pixel t.fb 3 4,
    Framebuffer.pixel t.fb 1 1, Framebuffer.pixel t.fb 4 0), t.reg 15, t.damaged)) =
    some ((true, true, false, false), 0, true) := by decide
/-- The byte F0 at (62, 31): two pixels set, the rest dropped, no spill into the first row. -/
theorem test_draw_clips : after (start 0xD011 [(0, 62), (1, 31)]) (fun t => (Framebuffer.pixel t.fb 62 31,
    Framebuffer.pixel t.fb 63 31, Framebuffer.pixel t.fb 0 0, t.reg 15)) = some (true, true, false, 0) := by decide
theorem test_cls : after { start 0x00E0 [] with fb := Vector.replicate 32 5 } (fun t =>
    (Framebuffer.pixel t.fb 0 0, t.damaged, t.reg 15)) = some (false, true, 0xEE) := by decide

/-- Key 9 pressed. -/
def key9 (s : State) : State := { s with keys := s.keys.set 9 true }

theorem test_skp : after (key9 (start 0xE09E [(0, 9)])) (·.pc) = some 0x204 ∧
    after (start 0xE09E [(0, 0x10)]) engine = some (.faulted, some (.keyIndexOutOfRange 0x10)) := by decide
theorem test_sknp : after (key9 (start 0xE0A1 [(0, 9)])) (·.pc) = some 0x202 ∧
    after (start 0xE0A1 [(0, 9)]) (·.pc) = some 0x204 := by decide
theorem test_key_wait : after (start 0xF30A []) (fun t => (t.engineState, t.pc, t.latchWaiting, t.latchTarget)) =
    some (.awaitingKey, 0x200, true, 3) := by decide
theorem test_ld_vx_dt : after { start 0xF407 [] with dt := 8 } (·.reg 4) = some 8 := by decide
theorem test_ld_dt_vx : after (start 0xF315 [(3, 9)]) (·.dt) = some 9 := by decide
theorem test_ld_st_vx : after { start 0xF018 [(0, 0)] with st := 5 } (fun t => (t.st, t.outputs)) =
    some (0, []) := by decide

/-- One tick of 0.02 s is one decrement, ST from 1 to 0 emits `stop_tone` (R210, R212). -/
theorem test_tick : let t := tick (1 / 50) { State.reset with dt := 3, st := 1 }
    t.dt = 2 ∧ t.st = 0 ∧ t.dtPhase = 0 ∧ t.outputs = [.stopTone] := by decide +kernel

/-- A key already down is no edge; the release keeps the wait (R213). -/
theorem test_set_key_no_edge : (setKey 9 true (key9 ((start 0 []).beginWait 3))).latchWaiting = true ∧
    (setKey 9 false (key9 ((start 0 []).beginWait 3))).latchWaiting = true := by decide
theorem test_set_key_edge : (setKey 9 true ((start 0 []).beginWait 3)).reg 3 = 9 ∧
    setKey 16 true (start 0 []) = start 0 [] := by decide
theorem test_read_framebuffer : (readFramebuffer { start 0 [] with damaged := true }).2.damaged = false ∧
    readDamaged { start 0 [] with damaged := true } = true := by decide

/-! ## Witnesses: each statement's hypotheses met together -/

theorem witness_DecodeOfEncode : Instr.wellFormed (.drw 15 0 15) = true := by decide

theorem witness_EncodeOfDecode : decodeWord 0xD0F5 = some (.drw 0 15 5) := by decide

/-- pc at the last fetchable address, 0xFFE. -/
def atTop : State := { State.reset with pc := 0xFFE }

theorem witness_StepRunsDecodedInstruction : StepIsNext (start 0x8014 []) (start 0x8014 []) ∧
    (start 0x8014 []).engineState = .running ∧ (start 0x8014 []).pc.toNat ≤ 0xFFE ∧
    (start 0x8014 []).pc.toNat % 2 = 0 ∧
    decodeWord ((start 0x8014 []).mem.get (start 0x8014 []).pc.toNat ++
      (start 0x8014 []).mem.get ((start 0x8014 []).pc.toNat + 1)) = some (.addReg 0 1) :=
  ⟨.inl ⟨rfl, rfl⟩, by decide⟩

/-- The other form of `StepIsNext`: the oldest host call is `step()`. -/
theorem witness_StepIsNext_call : StepIsNext { State.reset with hostCalls := [.step, .readFramebuffer] }
    { State.reset with hostCalls := [.readFramebuffer] } := .inr ⟨_, rfl, rfl⟩

theorem witness_UnrecognisedWordIsSkipped : StepIsNext atTop atTop ∧ atTop.engineState = .running ∧
    atTop.pc.toNat ≤ 0xFFE ∧ atTop.pc.toNat % 2 = 0 ∧
    decodeWord (atTop.mem.get atTop.pc.toNat ++ atTop.mem.get (atTop.pc.toNat + 1)) = none :=
  ⟨.inl ⟨rfl, rfl⟩, by decide⟩

theorem witness_InvalidPcFaults_range : StepIsNext { State.reset with pc := 0xFFF } { State.reset with pc := 0xFFF } ∧
    { State.reset with pc := 0xFFF }.engineState = .running ∧ 0xFFE < { State.reset with pc := 0xFFF }.pc.toNat :=
  ⟨.inl ⟨rfl, rfl⟩, by decide⟩

theorem witness_InvalidPcFaults_parity : StepIsNext { State.reset with pc := 0xFFD } { State.reset with pc := 0xFFD } ∧
    { State.reset with pc := 0xFFD }.engineState = .running ∧ { State.reset with pc := 0xFFD }.pc.toNat ≤ 0xFFE ∧
    { State.reset with pc := 0xFFD }.pc.toNat % 2 = 1 := ⟨.inl ⟨rfl, rfl⟩, by decide⟩

/-- A faulted machine, its latch idle. -/
def faulted : State := { State.reset with engineState := .faulted, faultReason := some .stackUnderflow }

theorem witness_FaultedStepChangesNothing : StepIsNext faulted faulted ∧ faulted.engineState = .faulted :=
  ⟨.inl ⟨rfl, rfl⟩, rfl⟩

/-- A machine that waits for a key at 0x200, with register 3 as target. -/
def waiting : State := (start 0xF30A []).beginWait 3

theorem witness_WaitingStep_waits : StepIsNext waiting waiting ∧ waiting.engineState = .awaitingKey ∧
    waiting.latchWaiting = true := ⟨.inl ⟨rfl, rfl⟩, rfl, rfl⟩

theorem witness_WaitingStep_completes : StepIsNext (setKey 9 true waiting) (setKey 9 true waiting) ∧
    (setKey 9 true waiting).engineState = .awaitingKey ∧ (setKey 9 true waiting).latchWaiting = false :=
  ⟨.inl ⟨by decide, rfl⟩, by decide⟩

/-- The reset state with host calls to come. -/
def calling (c : HostCall) : State := { State.reset with hostCalls := [c, .step] }

theorem witness_HostCallsHappenInOrder : (calling (.tick 1)).hostCalls = .tick 1 :: [.step] ∧
    (calling (.setKey 16 true)).hostCalls = .setKey 16 true :: [.step] ∧
    (calling .readFramebuffer).hostCalls = .readFramebuffer :: [.step] ∧
    (calling .step).hostCalls = .step :: [.step] := ⟨rfl, rfl, rfl, rfl⟩

theorem witness_PlacedWordRunsNext : State.reset.mem.wf ∧ Instr.wellFormed (.drw 0 1 15) = true :=
  ⟨Memory.wf_nil, by decide⟩

/-- A state of the invariant with a stack entry in use, whose next step answers a next state. -/
theorem witness_StepKeepsInvariant :
    let s := { start 0x00EE [] with sp := 1, stack := 0x1000 :: List.replicate 15 0 }
    s.Inv ∧ ∃ t, step s = .next t ∧ t.pc = 0x1000 := by
  refine ⟨⟨by decide, by decide, ?_, by decide, by decide, by decide, by decide, by decide, by decide,
    by decide +kernel, by decide +kernel⟩, _, rfl, by decide⟩
  intro k hk
  have : k = 0 := Nat.lt_one_iff.1 hk
  subst this; decide

/-- The parked states of the invariant too. -/
theorem witness_StepKeepsInvariant_parked : waiting.Inv ∧ ∃ t, step waiting = .next t := by
  exact ⟨⟨by decide, by decide, by decide, by decide, by decide, by decide, by decide, by decide, by decide,
    by decide +kernel, by decide +kernel⟩, _, rfl⟩

theorem witness_InitMeetsInvariant : Params.wf { stackCap := 255 } ∧
    ∃ s, initMachine { stackCap := 255 } [0x12, 0x00] .legacy = .ok s := ⟨by decide, _, rfl⟩

theorem witness_FaultedIsTerminal : faulted.engineState = .faulted ∧ ∃ t, step faulted = .next t := ⟨rfl, _, rfl⟩

/-- I at the boundaries of the tabled faults, the stack full. -/
def edge (i : Word) (x : Byte) : State :=
  { start 0 [(0, x)] with i := i, sp := 16 }

theorem witness_FaultsExactlyAsTabled : (edge 0xFFE 0x10).engineState = .running ∧
    (edge 0xFFE 0x10).sp.toNat ≤ (edge 0xFFE 0x10).stackCap := by decide

/-- Each row of the table at its boundary. -/
theorem witness_faultOfTable :
    faultOfTable (.ldB 0) (edge 0xFFD 0) = none ∧ faultOfTable (.ldB 0) (edge 0xFFE 0) = some (.memOutOfRange 0x1000) ∧
    faultOfTable (.storeRegs 0) (edge 0xFFE 0) = none ∧
    faultOfTable (.loadRegs 0) (edge 0xFFF 0) = some (.memOutOfRange 0x1000) ∧
    faultOfTable (.drw 0 0 0) (edge 0xFFF 0) = none ∧ faultOfTable (.drw 0 0 1) (edge 0xFFF 0) = none ∧
    faultOfTable (.drw 0 0 2) (edge 0xFFF 0) = some (.memOutOfRange 0x1000) ∧
    faultOfTable (.call 0) (edge 0 0) = some .stackOverflow ∧ faultOfTable .ret (start 0 []) = some .stackUnderflow ∧
    faultOfTable (.skp 0) (edge 0 15) = none ∧ faultOfTable (.sknp 0) (edge 0 16) = some (.keyIndexOutOfRange 16) ∧
    faultOfTable (.ldF 0) (edge 0 16) = some (.fontIndexOutOfRange 16) := by decide

theorem witness_EngineTransitionTable : (start 0x00EE []).hostCalls = [] ∧
    (start 0x00EE []).sp.toNat ≤ (start 0x00EE []).stackCap := by decide

/-- Each row of the table of R200. -/
theorem witness_engineStateOfTable :
    engineStateOfTable (start 0x00EE []) = .faulted ∧ engineStateOfTable (start 0x8014 []) = .running ∧
    engineStateOfTable (start 0xF30A []) = .awaitingKey ∧ engineStateOfTable (start 0x0000 []) = .running ∧
    engineStateOfTable { State.reset with pc := 0x1000 } = .faulted ∧ engineStateOfTable faulted = .faulted ∧
    engineStateOfTable waiting = .awaitingKey ∧ engineStateOfTable (setKey 9 true waiting) = .running := by decide

theorem witness_PcAdvanceTable : (start 0x00EE []).engineState = .running ∧
    ((setKey 9 true waiting).hostCalls = [] ∧ (setKey 9 true waiting).engineState = .awaitingKey ∧
      (setKey 9 true waiting).latchWaiting = false) ∧
    (atTop.hostCalls = [] ∧ atTop.engineState = .running ∧ atTop.pc.toNat ≤ 0xFFE ∧ atTop.pc.toNat % 2 = 0 ∧
      decodeWord (fetchWord atTop) = none) := by decide

theorem witness_OnlyListedRegistersChange :
    (∃ t, exec (.shr 0 1) (start 0 []) = .next t) ∧ (1 : Reg) ∉ regsOfInstr (.shr 0 1) (start 0 []) :=
  ⟨⟨_, rfl⟩, by decide⟩

theorem witness_OnlyTwoInstructionsStore :
    ∃ t, step { start 0xF033 [(0, 255)] with i := 0x300 } = .next t ∧
      t.mem ≠ { start 0xF033 [(0, 255)] with i := 0x300 }.mem := ⟨_, rfl, by decide⟩

theorem witness_ScreenWriters_draw : ∃ t, step (start 0xD015 []) = .next t ∧ t.fb ≠ (start 0xD015 []).fb :=
  ⟨_, rfl, by decide⟩

theorem witness_ScreenWriters_read : ∃ t, step { calling .readFramebuffer with damaged := true } = .next t ∧
    { calling .readFramebuffer with damaged := true }.damaged = true ∧ t.damaged = false := ⟨_, rfl, rfl, rfl⟩

theorem witness_OnlyCallAndRetTouchStack :
    ∃ t, exec (.call 0x300) (start 0 []) = .next t ∧ t.stack ≠ (start 0 []).stack ∧ t.sp ≠ (start 0 []).sp :=
  ⟨_, rfl, by decide⟩

theorem witness_OnlySetKeyChangesKeys :
    ∃ t, step (calling (.setKey 15 true)) = .next t ∧ t.keys ≠ (calling (.setKey 15 true)).keys :=
  ⟨_, rfl, by decide⟩

/-- The instruction that loads DT, and a tick that takes it down. -/
theorem witness_DelayTimerOnlyCountsDown :
    (∃ t, step (start 0xF315 [(3, 9)]) = .next t ∧ t.dt = 9) ∧
    ∃ t, step { calling (.tick 1) with dt := 3 } = .next t ∧ t.dt = 2 :=
  ⟨⟨_, rfl, by decide⟩, _, rfl, by decide +kernel⟩

theorem witness_CompatNeverChanges : (∃ t, step (start 0x8016 []) = .next t) ∧
    ∃ s, initMachine {} [0x12, 0x00] .legacy = .ok s := ⟨⟨_, rfl⟩, _, rfl⟩

theorem witness_CompatAffectsOnlyShifts : ∀ x y, Instr.addReg 0 1 ≠ .shr x y ∧ Instr.addReg 0 1 ≠ .shl x y :=
  fun _ _ => ⟨nofun, nofun⟩

theorem witness_RetPopsReturnAddress : (start 0 []).sp = 0 ∧ (edge 0 0).sp ≠ 0 ∧
    (edge 0 0).stack[(edge 0 0).sp.toNat - 1]? = some 0 := by decide

theorem witness_CallPushesReturnAddress : (edge 0 0).stackCap ≤ 255 ∧ (edge 0 0).sp.toNat = (edge 0 0).stackCap ∧
    { edge 0 0 with sp := 15 }.stackCap ≤ 255 ∧ { edge 0 0 with sp := 15 }.sp.toNat < { edge 0 0 with sp := 15 }.stackCap := by
  decide

/-- The clauses for a destination other than VF, and for the two values of `COMPAT`. -/
theorem witness_flag_writers : (14 : Reg) ≠ 15 ∧ (start 0x8016 []).compat = .modern ∧
    { start 0x8016 [] with compat := .legacy }.compat = .legacy := by decide

theorem witness_FontAddress : ((edge 0 15).reg 0).toNat ≤ 15 ∧ 15 < ((edge 0 16).reg 0).toNat := by decide

theorem witness_BcdStore : (edge 0xFFD 0).mem.wf ∧ (edge 0xFFD 0).i.toNat + 2 ≤ 0xFFF ∧
    (edge 0xFFE 0).mem.wf ∧ 0xFFF < (edge 0xFFE 0).i.toNat + 2 := by decide

theorem witness_BlockStore : (edge 0xFEF 0).mem.wf ∧ (edge 0xFEF 0).i.toNat + (15 : Reg).val + 1 ≤ 0xFFF ∧
    (edge 0xFF0 0).mem.wf ∧ 0xFFF < (edge 0xFF0 0).i.toNat + (15 : Reg).val + 1 := by decide

theorem witness_BlockLoad : (edge 0xFFE 0).i.toNat + (0 : Reg).val + 1 ≤ 0xFFF ∧
    0xFFF < (edge 0xFFF 0).i.toNat + (0 : Reg).val + 1 := by decide

/-- N = 0 and N = 1 at I = 0xFFF are in range, N = 2 is not. -/
theorem witness_DrawXorsSprite : (0 < 0 → (edge 0xFFF 0).i.toNat + 0 - 1 ≤ 0xFFF) ∧
    (0 < 1 → (edge 0xFFF 0).i.toNat + 1 - 1 ≤ 0xFFF) ∧ 0 < 2 ∧ 0xFFF < (edge 0xFFF 0).i.toNat + 2 - 1 := by decide

theorem witness_DrawTwiceRestoresScreen : (0 : Reg) ≠ 15 ∧ (1 : Reg) ≠ 15 ∧ (start 0 []).engineState = .running ∧
    ∃ t, exec (.drw 0 1 5) (start 0 []) = .next t ∧ t.engineState = .running ∧
      ∃ u, exec (.drw 0 1 5) t = .next u := ⟨by decide, by decide, rfl, _, rfl, rfl, _, rfl⟩

theorem witness_KeySkips : ((edge 0 15).reg 0).toNat = (15 : Fin 16).val ∧ 15 < ((edge 0 16).reg 0).toNat := by decide

theorem witness_TickCountsDown : (-1 : Rat) < 0 ∧ (0 : Rat) ≤ 0 := by decide +kernel

theorem witness_TicksOfOnePeriodDecrementOnce : State.reset.dtPhase = 0 ∧
    (∀ x ∈ [(1 / 1000 : Rat), 0, 1 / 100], 0 ≤ x) ∧ (0 : Rat) ≤ 1 / 50 ∧
    [(1 / 1000 : Rat), 0, 1 / 100].sum < 1 / 60 ∧ (1 / 60 : Rat) ≤ [(1 / 1000 : Rat), 0, 1 / 100].sum + 1 / 50 := by
  decide +kernel

theorem witness_SetKey_ignored : ((-1 : Int) < 0 ∨ (15 : Int) < -1) ∧ ((16 : Int) < 0 ∨ (15 : Int) < 16) := by decide

theorem witness_SetKey_edge : (15 : Int) = ((15 : Fin 16).val : Int) ∧ waiting.latchWaiting = true ∧
    waiting.keys[(15 : Fin 16).val] = false := by decide

theorem witness_SetKey_no_edge : (0 : Int) = ((0 : Fin 16).val : Int) ∧
    ¬ ((start 0 []).latchWaiting = true ∧ (start 0 []).keys[(0 : Fin 16).val] = false ∧ true = true) := by decide

/-- The key wait with two steps of waiting before the key event. -/
def waitCalls : State :=
  { start 0xF30A [] with hostCalls := List.replicate 3 .step ++ [.setKey (9 : Fin 16).val true, .step] }

theorem witness_KeyWaitProtocol :
    waitCalls.hostCalls = List.replicate (2 + 1) .step ++ [.setKey (9 : Fin 16).val true, .step] ∧
    waitCalls.engineState = .running ∧ waitCalls.pc.toNat ≤ 0xFFE ∧ waitCalls.pc.toNat % 2 = 0 ∧
    decodeWord (fetchWord waitCalls) = some (.ldVxK 3) ∧ waitCalls.keys[(9 : Fin 16).val] = false :=
  ⟨rfl, by decide⟩

theorem witness_InitialisedState : Params.wf {} ∧ 3584 < (List.replicate 3585 (0x12 : Byte)).length ∧
    (List.replicate 3584 (0x12 : Byte)).length ≤ 3584 := by
  simp only [List.length_replicate]; decide

end Sys2Proof.Tests
end

section
/-! PROOFS. The step of `spec/40_step_cycle.md`: what `StepIsNext` says of a step, and the faulted engine. -/

namespace Sys2Proof.Machine

/-- What `StepIsNext` is for: the event is `step()`, made at the state with the call taken. -/
theorem step_eq_engineStep_of_stepIsNext {s s' : State} (h : StepIsNext s s') : step s = engineStep s' := by
  obtain ⟨hc, rfl⟩ | ⟨rest, hc, rfl⟩ := h
  · simp only [step, nextEvent, hc]
  · simp only [step, nextEvent, hc, hostCall]

/-- Taking the call changes the list of host calls only; every other field of `s'` is that of `s` by `rfl` after it. -/
theorem eq_tail_of_stepIsNext {s s' : State} (h : StepIsNext s s') :
    s' = { s with hostCalls := s.hostCalls.tail } := by
  obtain ⟨hc, rfl⟩ | ⟨rest, hc, rfl⟩ := h
  · cases s'; simp_all
  · simp only [hc, List.tail_cons]

theorem engineState_of_stepIsNext {s s' : State} (h : StepIsNext s s') : s'.engineState = s.engineState := by
  rw [eq_tail_of_stepIsNext h]

theorem engineStep_of_faulted {s : State} (h : s.engineState = .faulted) : engineStep s = .next s := by
  simp only [engineStep, h]

/-- Settles O9: the event is `step()` at `s'`, whose engine is FAULTED as that of `s` is. -/
theorem faultedStepChangesNothing : Obligations.FaultedStepChangesNothing := by
  intro s s' hnext hfaulted
  have hfaulted' : s'.engineState = .faulted := (engineState_of_stepIsNext hnext).trans hfaulted
  exact ⟨(step_eq_engineStep_of_stepIsNext hnext).trans (engineStep_of_faulted hfaulted'), hfaulted'⟩

end Sys2Proof.Machine
end

section
/-! PROOFS. The flag-writing arithmetic of `spec/42_alu.md`: the words of family 8, what a write of VX and then VF leaves
in the registers, the sums, differences and flags in numbers, and the right shift in both modes. -/

namespace Sys2Proof.Machine

/-! ### Words and flags in numbers -/

/-- The word 8XYN (R72). -/
theorem toNat_packXYN_family8 (x y : Reg) (n : BitVec 4) :
    (packXYN 0x8#4 (regField x) (regField y) n).toNat = 0x8000 + n.toNat + 0x100 * x.val + 0x10 * y.val := by
  have hx : (regField x).toNat = x.val := rfl
  have hy : (regField y).toNat = y.val := rfl
  have hf : (0x8#4).toNat = 8 := rfl
  rw [toNat_packXYN, hx, hy, hf]; omega

theorem toNat_sub_add_256 (a b : Byte) : (a - b).toNat = (a.toNat + 256 - b.toNat) % 256 := by
  have := b.isLt
  rw [BitVec.toNat_sub]; omega

theorem flag_carry (a b : Byte) : flag (carry a b) = if a.toNat + b.toNat > 255 then 1 else 0 := by
  simp only [flag, carry, decide_eq_true_eq, gt_iff_lt]

theorem flag_noBorrow (a b : Byte) : flag (noBorrow a b) = if a.toNat ≥ b.toNat then 1 else 0 := by
  simp only [flag, noBorrow, decide_eq_true_eq, ge_iff_le]

/-! ### VX and then VF written -/

/-- VF is written last, so it holds the flag whatever X is (R98); VX holds the byte unless it is VF; the write stays in
every frame of the state before it that names both registers. -/
theorem writeRegFlag_spec {w : Touches} {s₀ s : State} {x : Reg} (h : ChangesOnly w s₀ s) (hx : x ∈ w.regs)
    (hVF : VF ∈ w.regs) (b : Byte) (f : Bool) :
    ∃ t, writeRegFlag s x b f = .next t ∧
      (∀ r, t.reg r = if r = VF then flag f else if r = x then b else s.reg r) ∧
      t.pc = s.pc + 2 ∧ ChangesOnly w s₀ t :=
  ⟨_, rfl, fun r => by rw [State.reg_advance, State.reg_setFlag, State.reg_setReg], rfl,
    ((h.setReg b hx).setFlag f hVF).advance⟩

/-- The same where nothing has been written before. -/
theorem writeRegFlag_changes (s : State) (x : Reg) (b : Byte) (f : Bool) :
    ∃ t, writeRegFlag s x b f = .next t ∧ (x ≠ VF → t.reg x = b) ∧ t.reg VF = flag f ∧
      t.pc = s.pc + 2 ∧ ChangesOnly { regs := [x, VF] } s t := by
  obtain ⟨t, ht, hreg, hpc, hframe⟩ := writeRegFlag_spec (w := { regs := [x, VF] }) (.refl _ s)
    (x := x) (by simp) (by simp) b f
  refine ⟨t, ht, fun hx => ?_, ?_, hpc, hframe⟩
  · rw [hreg, if_neg hx, if_pos rfl]
  · rw [hreg, if_pos rfl]

/-- Settles O36: the carry is the test of the sum before it wraps. -/
theorem addWithCarry : Obligations.AddWithCarry := by
  intro x y s
  obtain ⟨t, ht, hval, hflag, hpc, hframe⟩ :=
    writeRegFlag_changes s x (s.reg x + s.reg y) (carry (s.reg x) (s.reg y))
  refine ⟨toNat_packXYN_family8 x y 0x4#4, t, ht, fun hx => ?_, ?_, hpc, hframe⟩
  · rw [hval hx, BitVec.toNat_add]
  · rw [hflag, flag_carry]

/-- Settles O37: VX minus VY, with the no-borrow flag of that order. -/
theorem subtractNoBorrow : Obligations.SubtractNoBorrow := by
  intro x y s
  obtain ⟨t, ht, hval, hflag, hpc, hframe⟩ :=
    writeRegFlag_changes s x (s.reg x - s.reg y) (noBorrow (s.reg x) (s.reg y))
  refine ⟨toNat_packXYN_family8 x y 0x5#4, t, ht, fun hx => ?_, ?_, hpc, hframe⟩
  · rw [hval hx, toNat_sub_add_256]
  · rw [hflag, flag_noBorrow]

/-- Settles O38: VY minus VX, with the no-borrow flag of that order. -/
theorem reverseSubtractNoBorrow : Obligations.ReverseSubtractNoBorrow := by
  intro x y s
  obtain ⟨t, ht, hval, hflag, hpc, hframe⟩ :=
    writeRegFlag_changes s x (s.reg y - s.reg x) (noBorrow (s.reg y) (s.reg x))
  refine ⟨toNat_packXYN_family8 x y 0x7#4, t, ht, fun hx => ?_, ?_, hpc, hframe⟩
  · rw [hval hx, toNat_sub_add_256]
  · rw [hflag, flag_noBorrow]

/-! ### Shifts -/

/-- In `modern` a shift is a flagged write of the shifted VX (R128, R130). -/
theorem shiftOutcome_of_modern {s : State} (h : s.compat = .modern) (x y : Reg) (shifted : Byte → Byte)
    (out : Byte → Bool) :
    shiftOutcome s x y shifted out = writeRegFlag s x (shifted (s.reg x)) (out (s.reg x)) := by
  simp only [shiftOutcome, h, writeRegFlag]

/-- In `legacy` VY is shifted itself, and the flagged write of its shifted value into VX follows (R128, R130). -/
theorem shiftOutcome_of_legacy {s : State} (h : s.compat = .legacy) (x y : Reg) (shifted : Byte → Byte)
    (out : Byte → Bool) :
    shiftOutcome s x y shifted out =
      writeRegFlag (s.setReg y (shifted (s.reg y))) x (shifted (s.reg y)) (out (s.reg y)) := by
  simp only [shiftOutcome, h, writeRegFlag]

/-- What a `modern` shift changes. -/
theorem shiftOutcome_modern_changes {s : State} (h : s.compat = .modern) (x y : Reg) (shifted : Byte → Byte)
    (out : Byte → Bool) :
    ∃ t, shiftOutcome s x y shifted out = .next t ∧ (x ≠ VF → t.reg x = shifted (s.reg x)) ∧
      t.reg VF = flag (out (s.reg x)) ∧ t.pc = s.pc + 2 ∧ ChangesOnly { regs := [x, VF] } s t := by
  rw [shiftOutcome_of_modern h]
  exact writeRegFlag_changes s x _ _

/-- What a `legacy` shift changes: VX and VY both hold the shifted VY, each unless it is VF. -/
theorem shiftOutcome_legacy_changes {s : State} (h : s.compat = .legacy) (x y : Reg) (shifted : Byte → Byte)
    (out : Byte → Bool) :
    ∃ t, shiftOutcome s x y shifted out = .next t ∧ (x ≠ VF → t.reg x = shifted (s.reg y)) ∧
      (y ≠ VF → t.reg y = shifted (s.reg y)) ∧ t.reg VF = flag (out (s.reg y)) ∧ t.pc = s.pc + 2 ∧
      ChangesOnly { regs := [x, y, VF] } s t := by
  rw [shiftOutcome_of_legacy h]
  have hVY : ChangesOnly { regs := [x, y, VF] } s (s.setReg y (shifted (s.reg y))) :=
    (ChangesOnly.refl _ s).setReg _ (by simp)
  obtain ⟨t, ht, hreg, hpc, hframe⟩ :=
    writeRegFlag_spec hVY (x := x) (by simp) (by simp) (shifted (s.reg y)) (out (s.reg y))
  refine ⟨t, ht, fun hx => ?_, fun hy => ?_, ?_, hpc, hframe⟩
  · rw [hreg, if_neg hx, if_pos rfl]
  · rw [hreg, if_neg hy, State.reg_setReg_same, ite_self]
  · rw [hreg, if_pos rfl]

/-- Settles O39: the case split is on `COMPAT`, which says whose shift it is. -/
theorem shiftRightInBothModes : Obligations.ShiftRightInBothModes := by
  intro x y s
  refine ⟨toNat_packXYN_family8 x y 0x6#4, ?_⟩
  cases hc : s.compat with
  | modern =>
    obtain ⟨t, ht, hval, hflag, hpc, hframe⟩ := shiftOutcome_modern_changes hc x y (· >>> 1) outRight
    refine ⟨t, ht, hpc, fun _ => ⟨fun hx => ?_, ?_, hframe⟩, nofun⟩
    · rw [hval hx, toNat_half]
    · rw [hflag, toNat_flag, toNat_outRight]
  | legacy =>
    obtain ⟨t, ht, hvalX, hvalY, hflag, hpc, hframe⟩ := shiftOutcome_legacy_changes hc x y (· >>> 1) outRight
    refine ⟨t, ht, hpc, nofun, fun _ => ⟨fun hx => ?_, fun hy => ?_, ?_, hframe⟩⟩
    · rw [hvalX hx, toNat_half]
    · rw [hvalY hy, toNat_half]
    · rw [hflag, toNat_flag, toNat_outRight]

end Sys2Proof.Machine
end

section
/-! PROOFS. The decimal store of `spec/43_index_memory.md`: the words of family F, the digits as numbers, and what the
three bytes stored change in memory. -/

namespace Sys2Proof.Machine

/-- The word FXNN (R72). -/
theorem toNat_packXNN_familyF (x : Reg) (nn : Byte) :
    (packXNN 0xF#4 (regField x) nn).toNat = 0xF000 + nn.toNat + 0x100 * x.val := by
  have hx : (regField x).toNat = x.val := rfl
  have hf : (0xF#4).toNat = 15 := rfl
  rw [toNat_packXNN, hx, hf]; omega

/-- A store of three bytes leaves alone every address that is none of the three. -/
theorem Memory.get_putAll_three_other (m : Memory) {a a' : Nat} {bs : List Byte} (hlen : bs.length = 3)
    (h : a' ∉ [a, a + 1, a + 2]) : (m.putAll a bs).get a' = m.get a' := by
  simp only [List.mem_cons, List.not_mem_nil, or_false, not_or] at h
  exact Memory.get_putAll_other m a bs (by omega)

/-- The bytes stored are the digits as numbers: each is below 256, so its byte does not cut it (R143). -/
theorem Memory.toNat_get_putAll_bcdDigits {m : Memory} (hm : m.wf) {a : Nat} (h : a + 2 ≤ 0xFFF) (b : Byte) :
    ((m.putAll a (bcdDigits b)).get a).toNat = b.toNat / 100 ∧
      ((m.putAll a (bcdDigits b)).get (a + 1)).toNat = b.toNat / 10 % 10 ∧
      ((m.putAll a (bcdDigits b)).get (a + 2)).toNat = b.toNat % 10 := by
  have hb : b.toNat < 256 := b.isLt
  have hfits : a + (bcdDigits b).length ≤ Config.memSize := Nat.succ_le_succ h
  have hdigit (k : Nat) (hk : k < 3) :
      ((m.putAll a (bcdDigits b)).get (a + k)).toNat = ((bcdDigits b)[k]).toNat :=
    congrArg BitVec.toNat (Memory.get_putAll hm a _ hfits hk)
  refine ⟨?hundreds, ?tens, ?ones⟩
  case hundreds => exact (hdigit 0 (by decide)).trans (Nat.mod_eq_of_lt (by omega))
  case tens => exact (hdigit 1 (by decide)).trans (Nat.mod_eq_of_lt (by omega))
  case ones => exact (hdigit 2 (by decide)).trans (Nat.mod_eq_of_lt (by omega))

/-- With all three addresses in range the digits are stored and pc advances (R143). -/
theorem exec_ldB_of_inRange (x : Reg) {s : State} (h : s.i.toNat + 2 ≤ 0xFFF) :
    exec (.ldB x) s = .next (s.setMem (s.mem.putAll s.i.toNat (bcdDigits (s.reg x)))).advance :=
  if_neg (by simpa [effAddr, outOfRange_iff] using h)

/-- With the third address out of range the store faults (R143, R205). -/
theorem exec_ldB_of_outOfRange (x : Reg) {s : State} (h : 0xFFF < s.i.toNat + 2) :
    exec (.ldB x) s = .next (s.raise (.memOutOfRange (s.i.toNat + 2))) :=
  if_pos ((outOfRange_iff _).2 h)

/-- Settles O45: the three bytes read back as the digits, every other address stays, and the range check comes first. -/
theorem bcdStore : Obligations.BcdStore := by
  intro x s hwf
  refine ⟨toNat_packXNN_familyF x 0x33#8, fun hin => ?_, exec_ldB_of_outOfRange x⟩
  obtain ⟨hhundreds, htens, hones⟩ := Memory.toNat_get_putAll_bcdDigits hwf hin (s.reg x)
  have hother (a : Nat) (ha : a ∉ [s.i.toNat, s.i.toNat + 1, s.i.toNat + 2]) :
      (s.mem.putAll s.i.toNat (bcdDigits (s.reg x))).get a = s.mem.get a :=
    Memory.get_putAll_three_other s.mem (length_bcdDigits _) ha
  exact ⟨_, exec_ldB_of_inRange x hin, hhundreds, htens, hones, rfl, ((ChangesOnly.refl _ s).setMem _ hother).advance⟩

end Sys2Proof.Machine
end

section
/-! PROOFS. Faults of `spec/60_exceptions.md`: what an event can change once the engine is FAULTED. -/

namespace Sys2Proof.Machine

/-- From FAULTED only the host's own operations do anything: a tick on the timers (R210), a key event on the keys and
the latch (R213), a framebuffer read on the damaged flag (R214). `step()` only takes its call off the list (R91). -/
theorem step_changes_of_faulted {s t : State} (hfaulted : s.engineState = .faulted) (h : step s = .next t) :
    ∃ v dt st dtPhase stPhase keys waiting damaged outputs calls,
      t = { s with
        v := v, dt := dt, st := st, dtPhase := dtPhase, stPhase := stPhase, keys := keys, latchWaiting := waiting,
        damaged := damaged, outputs := outputs, hostCalls := calls } := by
  obtain ⟨-, hstep⟩ | ⟨e, rest, -, rfl⟩ | ⟨k, p, rest, -, rfl⟩ | ⟨rest, -, rfl⟩ := step_cases h
  · rw [engineStep_of_faulted (s := { s with hostCalls := s.hostCalls.tail }) hfaulted] at hstep
    cases hstep
    exact ⟨_, _, _, _, _, _, _, _, _, _, rfl⟩
  · obtain ⟨dt, st, dtPhase, stPhase, outputs, htick, -, -⟩ := tick_changes e { s with hostCalls := rest }
    exact ⟨_, dt, st, dtPhase, stPhase, _, _, _, outputs, _, htick⟩
  · obtain ⟨keys, v, waiting, hkey, -⟩ := setKey_changes k p { s with hostCalls := rest }
    exact ⟨v, _, _, _, _, keys, waiting, _, _, _, hkey⟩
  · exact ⟨_, _, _, _, _, _, _, false, _, _, rfl⟩

/-- Settles O17: none of the fields it names is among those an event can change in FAULTED. -/
theorem faultedIsTerminal : Obligations.FaultedIsTerminal := by
  intro s t hfaulted h
  obtain ⟨_, _, _, _, _, _, _, _, _, _, rfl⟩ := step_changes_of_faulted hfaulted h
  exact ⟨hfaulted, rfl, rfl, rfl, rfl, rfl, rfl, rfl⟩

end Sys2Proof.Machine
end

section
/-! PROOFS. The decoder and the encoder of `spec/30_encoding.md`: their round trips, the opcode map, the unrecognised
words. -/

namespace Sys2Proof

/-! ### Decoding what was encoded -/

/-- The count N of `DRW` fits its field exactly when the instruction is well-formed (R73). -/
theorem toNat_rowCount_of_wellFormed {x y : Reg} {n : Nat} (h : (Instr.drw x y n).wellFormed = true) :
    (BitVec.ofNat 4 n).toNat = n := by
  have hn : n ≤ 15 := of_decide_eq_true h
  rw [BitVec.toNat_ofNat]; omega

/-- The decoder finds the family in the word's top field, the operands in the fields they were packed into. -/
theorem decodeWord_encode {i : Instr} (h : i.wellFormed = true) : decodeWord (encode i) = some i := by
  cases i with
  | cls | ret => rfl
  | drw x y n =>
    simp only [encode, decodeWord, fieldF_packXYN, fieldX_packXYN, fieldY_packXYN, fieldN_packXYN, regOf_regField,
      toNat_rowCount_of_wellFormed h]
  | ldReg | orReg | andReg | xorReg | addReg | sub | shr | subn | shl => simp [encode, decodeWord, decodeFamily8]
  | skp | sknp => simp [encode, decodeWord, decodeFamilyE]
  | ldVxDT | ldVxK | ldDTVx | ldSTVx | addI | ldF | ldB | storeRegs | loadRegs =>
    simp [encode, decodeWord, decodeFamilyF]
  | jp | call | ldI | jpV0 | seImm | sneImm | ldImm | addImm | rnd | seReg | sneReg => simp [encode, decodeWord]

/-- The decoder reads the two bytes of a word that decodes, and leaves the bytes that follow (R55, R70). -/
theorem decode_bytes_append {w : Word} {i : Instr} (h : decodeWord w = some i) (rest : List Byte) :
    decode ([highByte w, lowByte w] ++ rest) = .ok (i, rest) := by
  simp only [List.cons_append, List.nil_append, decode_pair, wordOfBytes_bytes, h]

/-- Settles O1: the word first, then its two bytes. -/
theorem decodeOfEncode : Obligations.DecodeOfEncode := fun _ h =>
  ⟨decodeWord_encode h, decode_bytes_append (decodeWord_encode h)⟩

/-! ### Encoding what was decoded -/

section
variable {w : Word} {i : Instr}

/-- A word of format NNN is packed from its family and NNN (R72). -/
theorem packNNN_of_family {f : BitVec 4} (hF : fieldF w = f) : packNNN f (fieldNNN w) = w := hF ▸ packNNN_fields w

/-- A word of format XNN is packed from its family, X and NN (R72). -/
theorem packXNN_of_family {f : BitVec 4} (hF : fieldF w = f) : packXNN f (fieldX w) (fieldNN w) = w :=
  hF ▸ packXNN_fields w

/-- A word of format X is packed from its family, X and the low byte that names the variant (R72). -/
theorem packXNN_of_variant {f : BitVec 4} {nn : Byte} (hF : fieldF w = f) (hNN : fieldNN w = nn) :
    packXNN f (fieldX w) nn = w := hNN ▸ packXNN_of_family hF

/-- A word of format XY is packed from its family, X, Y and the nibble that names the variant (R72). -/
theorem packXYN_of_variant {f n : BitVec 4} (hF : fieldF w = f) (hN : fieldN w = n) :
    packXYN f (fieldX w) (fieldY w) n = w := hF ▸ hN ▸ packXYN_fields w

theorem encode_of_decodeFamily0 (h : decodeFamily0 w = some i) : i.wellFormed = true ∧ encode i = w := by
  unfold decodeFamily0 at h
  split at h
  · next hw => cases h; exact ⟨rfl, hw.symm⟩
  · split at h
    · next hw => cases h; exact ⟨rfl, hw.symm⟩
    · cases h

theorem encode_of_decodeFamily8 (hF : fieldF w = 0x8#4) (h : decodeFamily8 w = some i) :
    i.wellFormed = true ∧ encode i = w := by
  unfold decodeFamily8 at h
  split at h <;> cases h <;> exact ⟨rfl, packXYN_of_variant hF ‹_›⟩

theorem encode_of_decodeFamilyE (hF : fieldF w = 0xE#4) (h : decodeFamilyE w = some i) :
    i.wellFormed = true ∧ encode i = w := by
  unfold decodeFamilyE at h
  split at h <;> cases h <;> exact ⟨rfl, packXNN_of_variant hF ‹_›⟩

theorem encode_of_decodeFamilyF (hF : fieldF w = 0xF#4) (h : decodeFamilyF w = some i) :
    i.wellFormed = true ∧ encode i = w := by
  unfold decodeFamilyF at h
  split at h <;> cases h <;> exact ⟨rfl, packXNN_of_variant hF ‹_›⟩

/-- N of `DRW` is a field of 4 bits (R73), so the instruction decoded is well-formed and N is packed again without
loss. -/
theorem encode_drw_fields (hF : fieldF w = 0xD#4) :
    (Instr.drw (regOf (fieldX w)) (regOf (fieldY w)) (fieldN w).toNat).wellFormed = true ∧
      encode (.drw (regOf (fieldX w)) (regOf (fieldY w)) (fieldN w).toNat) = w := by
  refine ⟨decide_eq_true (Nat.le_of_lt_succ (fieldN w).isLt), ?_⟩
  simp only [encode, regField_regOf, BitVec.ofNat_toNat, BitVec.setWidth_eq]
  exact packXYN_of_variant hF rfl

/-- The 16 families of R75, one by one. -/
theorem encode_of_decodeWord (h : decodeWord w = some i) : i.wellFormed = true ∧ encode i = w := by
  unfold decodeWord at h
  split at h
  next => exact encode_of_decodeFamily0 h
  next hF => cases h; exact ⟨rfl, packNNN_of_family hF⟩
  next hF => cases h; exact ⟨rfl, packNNN_of_family hF⟩
  next hF => cases h; exact ⟨rfl, packXNN_of_family hF⟩
  next hF => cases h; exact ⟨rfl, packXNN_of_family hF⟩
  next hF => split at h <;> cases h; exact ⟨rfl, packXYN_of_variant hF ‹_›⟩
  next hF => cases h; exact ⟨rfl, packXNN_of_family hF⟩
  next hF => cases h; exact ⟨rfl, packXNN_of_family hF⟩
  next hF => exact encode_of_decodeFamily8 hF h
  next hF => split at h <;> cases h; exact ⟨rfl, packXYN_of_variant hF ‹_›⟩
  next hF => cases h; exact ⟨rfl, packNNN_of_family hF⟩
  next hF => cases h; exact ⟨rfl, packNNN_of_family hF⟩
  next hF => cases h; exact ⟨rfl, packXNN_of_family hF⟩
  next hF => cases h; exact encode_drw_fields hF
  next hF => exact encode_of_decodeFamilyE hF h
  next hF => exact encode_of_decodeFamilyF hF h
  next => cases h

end

/-- Settles O2: by the family, which says of which fields the word is packed. -/
theorem encodeOfDecode : Obligations.EncodeOfDecode := fun _ _ => encode_of_decodeWord

end Sys2Proof
end

section
/-! PROOFS. The opcode map of `spec/30_encoding.md`: the row a word selects is that of the instruction it decodes to,
and the words that select none. -/

namespace Sys2Proof

/-! ### The opcode map -/

section
variable (v w : Word)

theorem fieldF_and : fieldF (w &&& v) = fieldF w &&& fieldF v := BitVec.extractLsb'_and
theorem fieldN_and : fieldN (w &&& v) = fieldN w &&& fieldN v := BitVec.extractLsb'_and
theorem fieldNN_and : fieldNN (w &&& v) = fieldNN w &&& fieldNN v := BitVec.extractLsb'_and

end

/-- The word of an instruction selects the instruction's own row (R74, R75). -/
theorem row_selectedBy_encode (i : Instr) : i.row.selectedBy (encode i) = true := by
  cases i with
  | cls => exact Laws.EncodedWordInRow.cls
  | ret => exact Laws.EncodedWordInRow.ret
  | jp => exact Laws.EncodedWordInRow.jp _
  | call => exact Laws.EncodedWordInRow.call _
  | seImm => exact Laws.EncodedWordInRow.seImm _ _
  | sneImm => exact Laws.EncodedWordInRow.sneImm _ _
  | seReg => exact Laws.EncodedWordInRow.seReg _ _
  | ldImm => exact Laws.EncodedWordInRow.ldImm _ _
  | addImm => exact Laws.EncodedWordInRow.addImm _ _
  | ldReg => exact Laws.EncodedWordInRow.ldReg _ _
  | orReg => exact Laws.EncodedWordInRow.orReg _ _
  | andReg => exact Laws.EncodedWordInRow.andReg _ _
  | xorReg => exact Laws.EncodedWordInRow.xorReg _ _
  | addReg => exact Laws.EncodedWordInRow.addReg _ _
  | sub => exact Laws.EncodedWordInRow.sub _ _
  | shr => exact Laws.EncodedWordInRow.shr _ _
  | subn => exact Laws.EncodedWordInRow.subn _ _
  | shl => exact Laws.EncodedWordInRow.shl _ _
  | sneReg => exact Laws.EncodedWordInRow.sneReg _ _
  | ldI => exact Laws.EncodedWordInRow.ldI _
  | jpV0 => exact Laws.EncodedWordInRow.jpV0 _
  | rnd => exact Laws.EncodedWordInRow.rnd _ _
  | drw => exact Laws.EncodedWordInRow.drw _ _ _
  | skp => exact Laws.EncodedWordInRow.skp _
  | sknp => exact Laws.EncodedWordInRow.sknp _
  | ldVxDT => exact Laws.EncodedWordInRow.ldVxDT _
  | ldVxK => exact Laws.EncodedWordInRow.ldVxK _
  | ldDTVx => exact Laws.EncodedWordInRow.ldDTVx _
  | ldSTVx => exact Laws.EncodedWordInRow.ldSTVx _
  | addI => exact Laws.EncodedWordInRow.addI _
  | ldF => exact Laws.EncodedWordInRow.ldF _
  | ldB => exact Laws.EncodedWordInRow.ldB _
  | storeRegs => exact Laws.EncodedWordInRow.storeRegs _
  | loadRegs => exact Laws.EncodedWordInRow.loadRegs _

theorem row_mem_opcodeMap (i : Instr) : i.row ∈ opcodeMap := by
  cases i <;> simp only [opcodeMap, Instr.row, List.cons_append, List.nil_append, List.mem_cons, true_or, or_true]

theorem exists_row_of_mem_opcodeMap : ∀ r ∈ opcodeMap, ∃ i : Instr, i.row = r := by
  simp only [opcodeMap, List.cons_append, List.nil_append, List.forall_mem_cons, List.not_mem_nil,
    false_implies, implies_true, and_true]
  and_intros <;> exact ⟨_, rfl⟩

section
variable {m p : Word} {name : String} {w : Word}

/-- A row fixes the fields its mask covers (R74): the family, with N, with NN, or all of the word. -/
theorem and_mask_of_selectedBy (h : (OpcodeRow.mk name m p).selectedBy w = true) : w &&& m = p := beq_iff_eq.1 h

theorem fieldF_of_selectedBy (h : (OpcodeRow.mk name m p).selectedBy w = true) (hm : fieldF m = 0xF#4) :
    fieldF w = fieldF p := by
  rw [← and_mask_of_selectedBy h, fieldF_and, hm]
  exact BitVec.and_allOnes.symm

theorem fieldN_of_selectedBy (h : (OpcodeRow.mk name m p).selectedBy w = true) (hm : fieldN m = 0xF#4) :
    fieldN w = fieldN p := by
  rw [← and_mask_of_selectedBy h, fieldN_and, hm]
  exact BitVec.and_allOnes.symm

theorem fieldNN_of_selectedBy (h : (OpcodeRow.mk name m p).selectedBy w = true) (hm : fieldNN m = 0xFF#8) :
    fieldNN w = fieldNN p := by
  rw [← and_mask_of_selectedBy h, fieldNN_and, hm]
  exact BitVec.and_allOnes.symm

theorem eq_pattern_of_selectedBy (h : (OpcodeRow.mk name 0xFFFF p).selectedBy w = true) : w = p := by
  rw [← and_mask_of_selectedBy h]
  exact BitVec.and_allOnes.symm
end

/-- A word that selects the row of an instruction decodes to an instruction of that row: the fields the row's mask
covers are the ones the decoder looks at. -/
theorem decodeWord_row_of_selectedBy {i : Instr} {w : Word} (h : i.row.selectedBy w = true) :
    (decodeWord w).map Instr.row = some i.row := by
  cases i with
  | cls | ret => rw [eq_pattern_of_selectedBy h]; rfl
  | jp | call | ldI | jpV0 | seImm | sneImm | ldImm | addImm | rnd | drw =>
    simp only [decodeWord, fieldF_of_selectedBy h rfl]; rfl
  | seReg | sneReg =>
    simp only [decodeWord, fieldF_of_selectedBy h rfl, fieldN_of_selectedBy h rfl]; rfl
  | ldReg | orReg | andReg | xorReg | addReg | sub | shr | subn | shl =>
    simp only [decodeWord, fieldF_of_selectedBy h rfl, decodeFamily8, fieldN_of_selectedBy h rfl]; rfl
  | skp | sknp =>
    simp only [decodeWord, fieldF_of_selectedBy h rfl, decodeFamilyE, fieldNN_of_selectedBy h rfl]; rfl
  | ldVxDT | ldVxK | ldDTVx | ldSTVx | addI | ldF | ldB | storeRegs | loadRegs =>
    simp only [decodeWord, fieldF_of_selectedBy h rfl, decodeFamilyF, fieldNN_of_selectedBy h rfl]; rfl

/-- Settles O3: a row that a word selects is the row of the word's instruction, so a word selects one row or, where it
decodes to nothing, none. -/
theorem decoderFollowsOpcodeMap : Obligations.DecoderFollowsOpcodeMap := by
  have hrow (r) (hr : r ∈ opcodeMap) (w : Word) (h : r.selectedBy w = true) :
      (decodeWord w).map Instr.row = some r := by
    obtain ⟨i, rfl⟩ := exists_row_of_mem_opcodeMap r hr
    exact decodeWord_row_of_selectedBy h
  refine ⟨fun w => ?_, ?_⟩
  · cases hfind : opcodeMap.find? (fun r => r.selectedBy w) with
    | some r =>
      have hselected : r.selectedBy w = true := List.find?_some (p := (OpcodeRow.selectedBy · w)) hfind
      exact hrow r (List.mem_of_find?_eq_some hfind) w hselected
    | none =>
      cases hdec : decodeWord w with
      | none => rfl
      | some i =>
        refine absurd (row_selectedBy_encode i) ?_
        rw [(encode_of_decodeWord hdec).2]
        exact List.find?_eq_none.1 hfind _ (row_mem_opcodeMap i)
  · have hnodup : opcodeMap.Pairwise (· ≠ ·) := by decide
    refine hnodup.imp_of_mem fun {r r'} hr hr' hne w ⟨h, h'⟩ => hne ?_
    exact Option.some.inj ((hrow r hr w h).symm.trans (hrow r' hr' w h'))

/-! ### The unrecognised words -/

theorem toNat_fieldF_eq_div (w : Word) : (fieldF w).toNat = w.toNat / 0x1000 := by
  have := w.isLt
  rw [toNat_fieldF]; omega

theorem decodeFamily0_eq_none_iff (w : Word) :
    decodeFamily0 w = none ↔ w.toNat ≠ 0x00E0 ∧ w.toNat ≠ 0x00EE := by
  unfold decodeFamily0
  split
  · next hw => simp [hw]
  · split
    · next hw => simp [hw]
    · simp_all [← BitVec.toNat_inj]

theorem decodeFamily8_eq_none_iff (w : Word) :
    decodeFamily8 w = none ↔ w.toNat % 0x10 ∈ [0x8, 0x9, 0xA, 0xB, 0xC, 0xD, 0xF] := by
  rw [← toNat_fieldN]
  unfold decodeFamily8
  have hlt := (fieldN w).isLt
  split
  case h_10 => -- the last arm: N is none of the nine variants
    simp_all [← BitVec.toNat_inj]
    omega
  all_goals simp [*]

theorem decodeFamilyE_eq_none_iff (w : Word) : decodeFamilyE w = none ↔ w.toNat % 0x100 ∉ [0x9E, 0xA1] := by
  rw [← toNat_fieldNN]
  unfold decodeFamilyE
  split <;> simp_all [← BitVec.toNat_inj]

theorem decodeFamilyF_eq_none_iff (w : Word) : decodeFamilyF w = none ↔
    w.toNat % 0x100 ∉ [0x07, 0x0A, 0x15, 0x18, 0x1E, 0x29, 0x33, 0x55, 0x65] := by
  rw [← toNat_fieldNN]
  unfold decodeFamilyF
  split <;> simp_all [← BitVec.toNat_inj]

/-- Settles O4: family by family; of the families 1 to 4, 6, 7 and A to D every word decodes. -/
theorem unrecognisedWordsOfR76 : Obligations.UnrecognisedWordsOfR76 := by
  intro w
  have hN : fieldN w = 0#4 ↔ w.toNat % 0x10 = 0 := by rw [← toNat_fieldN, ← BitVec.toNat_inj]; rfl
  have hlt := (fieldF w).isLt
  rw [← toNat_fieldF_eq_div]
  unfold decodeWord
  split
  case h_17 => -- the last arm: F is none of the 16 families
    simp_all [← BitVec.toNat_inj]
    omega
  all_goals simp [*, decodeFamily0_eq_none_iff, decodeFamily8_eq_none_iff, decodeFamilyE_eq_none_iff,
    decodeFamilyF_eq_none_iff]

/-- Settles O5: the nine words are decoded by evaluation. -/
theorem specWordsDecode : Obligations.SpecWordsDecode := by unfold Obligations.SpecWordsDecode; decide

end Sys2Proof
end

section
/-! PROOFS. An instruction as a function on states: its updates where the table of R201 (`spec/60_exceptions.md`) gives
it no fault, and the fault of the table where it gives one. -/

namespace Sys2Proof.Machine

/-- The fault an instruction raises, in every state: that of R201's table, but that `CALL` faults also on a stack that
is more than full, which no state of the invariant has. -/
def raisedFault (i : Instr) (s : State) : Option Fault :=
  match i with
  | .call _ => if s.sp.toNat < s.stackCap then none else some .stackOverflow
  | i => faultOfTable i s

/-- The state after an instruction. -/
def afterInstr (i : Instr) (s : State) : State := (raisedFault i s).elim (effect i s) s.raise

theorem raisedFault_eq_faultOfTable {s : State} (h : s.sp.toNat ≤ s.stackCap) (i : Instr) :
    raisedFault i s = faultOfTable i s := by
  cases i with
  | call =>
    simp only [raisedFault, faultOfTable]
    split <;> split
    · omega
    · rfl
    · rfl
    · omega
  | _ => rfl

theorem afterInstr_of_none {i : Instr} {s : State} (h : raisedFault i s = none) : afterInstr i s = effect i s := by
  rw [afterInstr, h, Option.elim_none]

theorem afterInstr_of_some {i : Instr} {s : State} {f : Fault} (h : raisedFault i s = some f) :
    afterInstr i s = s.raise f := by
  rw [afterInstr, h, Option.elim_some]

theorem indexTooLarge_iff (b : Byte) : indexTooLarge b = true ↔ 15 < b.toNat := by simp [indexTooLarge]

/-- A guard that raises a fault, in the terms of the table's condition. -/
theorem ite_takeFault {c d : Prop} [Decidable c] [Decidable d] (h : c ↔ d) (s t : State) (f : Fault) :
    (if c then takeFault s f else .next t) = .next ((if d then some f else none).elim t s.raise) := by
  by_cases hd : d
  · rw [if_pos (h.2 hd), if_pos hd]; rfl
  · rw [if_neg (h.not.2 hd), if_neg hd]; rfl

/-- Every instruction answers a next state: the guard of each meaning is the condition of its row of R201. -/
theorem exec_eq_afterInstr (i : Instr) (s : State) : exec i s = .next (afterInstr i s) := by
  cases i with
  | ret => exact ite_takeFault BitVec.toNat_inj.symm s _ _
  | call nnn =>
    simp only [exec, execCall, afterInstr, raisedFault]
    split <;> rfl
  | shr | shl =>
    rw [afterInstr_of_none rfl]
    simp only [exec, execShr, execShl, shiftOutcome, effect]
    split <;> simp_all
  | drw x y n =>
    refine ite_takeFault ?_ s _ _
    simp only [Bool.and_eq_true, decide_eq_true_eq, outOfRange_iff, spriteEnd, gt_iff_lt]
  | skp | sknp | ldF => exact ite_takeFault (indexTooLarge_iff _) s _ _
  | ldB | storeRegs | loadRegs => exact ite_takeFault (outOfRange_iff _) s _ _
  | _ => rfl

theorem eq_afterInstr_of_exec {i : Instr} {s t : State} (h : exec i s = .next t) : t = afterInstr i s := by
  rw [exec_eq_afterInstr] at h
  exact (Host.Outcome.next.inj h).symm

end Sys2Proof.Machine
end

section
/-! PROOFS. The step of `spec/40_step_cycle.md`, one equation per case of the engine, and the host's calls. -/

namespace Sys2Proof.Machine

/-! ### The engine's step, case by case -/

section
variable {s : State}

theorem pcFault_of_outOfRange {pc : Word} (h : 0xFFE < pc.toNat) : pcFault pc = some (.pcOutOfRange pc) := if_pos h

/-- Parity is looked at only where the range is met (R93). -/
theorem pcFault_of_odd {pc : Word} (h : pc.toNat ≤ 0xFFE) (hodd : pc.toNat % 2 = 1) :
    pcFault pc = some (.pcOdd pc) := (if_neg (Nat.not_lt.2 h)).trans (if_pos hodd)

theorem pcFault_of_valid {pc : Word} (h : pc.toNat ≤ 0xFFE) (heven : pc.toNat % 2 = 0) : pcFault pc = none :=
  (pcFault_eq_none_iff pc).2 ⟨h, heven⟩

theorem engineStep_of_latchWaiting (he : s.engineState = .awaitingKey) (hl : s.latchWaiting = true) :
    engineStep s = .next s := by
  simp only [engineStep, he, waitingStep, hl, if_true]

theorem engineStep_of_latchIdle (he : s.engineState = .awaitingKey) (hl : s.latchWaiting = false) :
    engineStep s = .next s.endWait := by
  simp only [engineStep, he, waitingStep, hl, Bool.false_eq_true, if_false]

theorem engineStep_of_pcFault {f : Fault} (he : s.engineState = .running) (hpc : pcFault s.pc = some f) :
    engineStep s = .next (s.raise f) := by
  simp only [engineStep, he, runningStep, hpc, takeFault]

theorem engineStep_of_unrecognised (he : s.engineState = .running) (hpc : pcFault s.pc = none)
    (hd : decodeWord (fetchWord s) = none) : engineStep s = .next (skipUnrecognised (fetchWord s) s) := by
  simp only [engineStep, he, runningStep, hpc, fetchExecute_none hd]

theorem engineStep_of_instr {i : Instr} (he : s.engineState = .running) (hpc : pcFault s.pc = none)
    (hd : decodeWord (fetchWord s) = some i) : engineStep s = exec i s := by
  simp only [engineStep, he, runningStep, hpc, fetchExecute_some hd]

end

/-- Settles O6: taking the call leaves pc and memory, so the engine's step finds the same word. -/
theorem stepRunsDecodedInstruction : Obligations.StepRunsDecodedInstruction := by
  intro s s' i hnext he hle heven hd
  rw [step_eq_engineStep_of_stepIsNext hnext]
  obtain rfl := eq_tail_of_stepIsNext hnext
  exact engineStep_of_instr he (pcFault_of_valid hle heven) hd

/-- Settles O7: the diagnostic and the advance are the two updates of the skip. -/
theorem unrecognisedWordIsSkipped : Obligations.UnrecognisedWordIsSkipped := by
  intro s s' hnext he hle heven hd
  rw [step_eq_engineStep_of_stepIsNext hnext]
  obtain rfl := eq_tail_of_stepIsNext hnext
  exact engineStep_of_unrecognised he (pcFault_of_valid hle heven) hd

/-- Settles O8: the range is checked before the parity. -/
theorem invalidPcFaults : Obligations.InvalidPcFaults := by
  intro s s' hnext he
  rw [step_eq_engineStep_of_stepIsNext hnext]
  obtain rfl := eq_tail_of_stepIsNext hnext
  exact ⟨fun h => engineStep_of_pcFault he (pcFault_of_outOfRange h),
    fun h hodd => engineStep_of_pcFault he (pcFault_of_odd h hodd)⟩

/-- Settles O10: the latch says whether the wait goes on. -/
theorem waitingStepIsNoOpThenCompletes : Obligations.WaitingStepIsNoOpThenCompletes := by
  intro s s' hnext he
  rw [step_eq_engineStep_of_stepIsNext hnext]
  obtain rfl := eq_tail_of_stepIsNext hnext
  exact ⟨fun hl => engineStep_of_latchWaiting he hl, fun hl => engineStep_of_latchIdle he hl⟩

/-! ### The host's calls -/

theorem engineStep_total (s : State) : ∃ t, engineStep s = .next t := by
  cases he : s.engineState with
  | faulted => exact ⟨_, engineStep_of_faulted he⟩
  | awaitingKey =>
    cases hl : s.latchWaiting with
    | true => exact ⟨_, engineStep_of_latchWaiting he hl⟩
    | false => exact ⟨_, engineStep_of_latchIdle he hl⟩
  | running =>
    cases hpc : pcFault s.pc with
    | some f => exact ⟨_, engineStep_of_pcFault he hpc⟩
    | none =>
      cases hd : decodeWord (fetchWord s) with
      | none => exact ⟨_, engineStep_of_unrecognised he hpc hd⟩
      | some i => exact ⟨_, (engineStep_of_instr he hpc hd).trans (exec_eq_afterInstr i s)⟩

/-- `step()` does not look at the host's calls to come. -/
theorem engineStep_hostCalls {s t : State} (h : engineStep s = .next t) (calls : List HostCall) :
    engineStep { s with hostCalls := calls } = .next { t with hostCalls := calls } := by
  obtain ⟨he, rfl⟩ | ⟨he, hl, rfl⟩ | ⟨he, hl, rfl⟩ | ⟨he, f, hpc, rfl⟩ | ⟨he, hpc, hd, rfl⟩ | ⟨he, hpc, i, hd, hi⟩ :=
    engineStep_cases h
  · exact engineStep_of_faulted (s := { t with hostCalls := calls }) he
  · exact engineStep_of_latchWaiting (s := { t with hostCalls := calls }) he hl
  · exact engineStep_of_latchIdle (s := { s with hostCalls := calls }) he hl
  · exact engineStep_of_pcFault (s := { s with hostCalls := calls }) he hpc
  · exact engineStep_of_unrecognised (s := { s with hostCalls := calls }) he hpc hd
  · obtain ⟨u, hu, hu'⟩ := exec_hostCalls i s calls
    obtain rfl : t = u := Host.Outcome.next.inj (hi.symm.trans hu)
    exact (engineStep_of_instr (s := { s with hostCalls := calls }) he hpc hd).trans hu'

section
variable {s : State}

theorem step_of_nil (h : s.hostCalls = []) : step s = engineStep s := by simp only [step, nextEvent, h]

theorem step_of_cons {c : HostCall} {rest : List HostCall} (h : s.hostCalls = c :: rest) :
    step s = hostCall c { s with hostCalls := rest } := by simp only [step, nextEvent, h]

end

/-- Settles O11: each kind of call by its own operation; `step()` does not look at the calls after it. -/
theorem hostCallsHappenInOrder : Obligations.HostCallsHappenInOrder := by
  refine fun s rest => ⟨fun _ => step_of_cons, fun _ _ => step_of_cons, fun h => ⟨rfl, step_of_cons h⟩, fun h => ?_⟩
  obtain ⟨t, ht⟩ := engineStep_total { s with hostCalls := [] }
  exact ⟨t, (step_of_nil rfl).trans ht, (step_of_cons h).trans (engineStep_hostCalls ht rest)⟩

/-- Settles O13: the engine's step is total, and each other call is a function on states. -/
theorem stepAlwaysAnswersNext : Obligations.StepAlwaysAnswersNext := by
  intro s
  cases h : s.hostCalls with
  | nil => rw [step_of_nil h]; exact engineStep_total s
  | cons c rest =>
    rw [step_of_cons h]
    cases c with
    | step => exact engineStep_total _
    | tick | setKey | readFramebuffer => exact ⟨_, rfl⟩

/-! ### A word placed where it is fetched -/

theorem pcFault_fetchPlace (s : State) : pcFault (fetchPlace s) = none := by
  unfold fetchPlace
  split
  · assumption
  · rfl

/-- The fetch finds the word placed: its two bytes are stored where the fetch reads them (R55). -/
theorem fetchWord_placeWord {s : State} (hm : s.mem.wf) (w : Word) : fetchWord (placeWord s w) = w := by
  obtain ⟨hle, -⟩ := (pcFault_eq_none_iff _).1 (pcFault_fetchPlace s)
  have hbyte (k : Nat) (hk : k < 2) := Memory.get_putAll hm (fetchPlace s).toNat [highByte w, lowByte w]
    (Nat.succ_le_succ (Nat.succ_le_succ hle)) hk
  exact (congrArg₂ wordOfBytes (hbyte 0 (by decide)) (hbyte 1 (by decide))).trans (wordOfBytes_bytes w)

/-- Settles O12: the engine is RUNNING at a valid pc, the fetch finds the word, and the word decodes to the
instruction. -/
theorem placedWordRunsNext : Obligations.PlacedWordRunsNext := by
  intro s i hm hwf
  rw [State.withFetchWord, tableWord_toNat]
  refine (step_of_nil rfl).trans (engineStep_of_instr rfl (pcFault_fetchPlace s) ?_)
  rw [fetchWord_placeWord hm, decodeWord_encode hwf]

end Sys2Proof.Machine
end

section
/-! PROOFS. What an instruction moves and what it leaves: its pc, its engine state and its frame, said once for all 34,
and the tables of `spec/40_step_cycle.md` and `spec/60_exceptions.md` that follow. -/

namespace Sys2Proof.Machine

open State

/-! ### The frame of every instruction -/

/-- What an instruction may change beside pc. -/
def touchesOf (i : Instr) (s : State) : Touches where
  regs := regsOfInstr i s
  stored := match i with
    | .ldB _ => [s.i.toNat, s.i.toNat + 1, s.i.toNat + 2]
    | .storeRegs x => List.range' s.i.toNat (x.val + 1)
    | _ => []
  index := match i with
    | .ldI _ | .addI _ | .ldF _ | .storeRegs _ | .loadRegs _ => true
    | _ => false
  stack := match i with
    | .call _ | .ret => true
    | _ => false
  screen := match i with
    | .cls | .drw _ _ _ => true
    | _ => false
  dt := match i with
    | .ldDTVx _ => true
    | _ => false
  st := match i with
    | .ldSTVx _ => true
    | _ => false
  latch := match i with
    | .ldVxK _ => true
    | _ => false
  draw := match i with
    | .rnd _ _ => true
    | _ => false

/-- A block store leaves alone every address outside I to I + X (R144). -/
theorem Memory.get_putAll_blockBytes_other (s : State) (x : Reg) {a : Nat}
    (h : a ∉ List.range' s.i.toNat (x.val + 1)) :
    (s.mem.putAll s.i.toNat (blockBytes s x)).get a = s.mem.get a := by
  rw [List.mem_range'_1] at h
  refine Memory.get_putAll_other _ _ _ ?_
  rw [length_blockBytes]; omega

/-- The registers above X stay in a block load (R145). -/
theorem getElem_blockRegs_other (s : State) {x r : Reg} (h : r ∉ regsOfInstr (.loadRegs x) s) :
    (blockRegs s x)[r.val] = s.reg r := by
  have hr : ¬ r ≤ x := by simpa [regsOfInstr] using h
  rw [getElem_blockRegs, if_neg hr]

/-- A shift writes VX and VF in both modes. -/
theorem mem_regsOfInstr_shift (x y : Reg) (s : State) :
    x ∈ regsOfInstr (.shr x y) s ∧ VF ∈ regsOfInstr (.shr x y) s := by
  simp only [regsOfInstr]; split <;> simp

/-- The chain of an instruction's updates, each inside the frame. -/
theorem effect_changesOnly (i : Instr) (s : State) : ChangesOnly (touchesOf i s) s (effect i s) := by
  have h0 := ChangesOnly.refl (touchesOf i s) s
  cases i with
  | cls => exact (h0.setScreen _ rfl).advance
  | ret => exact (h0.dropTop rfl).setPc _
  | jp | jpV0 => exact h0.setPc _
  | call => exact (h0.push _ rfl).setPc _
  | seImm | sneImm | seReg | sneReg | skp | sknp => exact h0.skipIf _
  | ldImm x | addImm x | ldReg x | orReg x | andReg x | xorReg x | ldVxDT x =>
    exact (h0.setReg _ (List.mem_singleton_self x)).advance
  | addReg x | sub x | subn x =>
    exact ((h0.setReg _ (List.mem_cons_self)).setFlag _ (.tail x (List.mem_singleton_self _))).advance
  | shr x y | shl x y =>
    obtain ⟨hx, hVF⟩ := mem_regsOfInstr_shift x y s
    cases hc : s.compat with
    | modern => simp only [effect, hc]; exact ((h0.setReg _ hx).setFlag _ hVF).advance
    | legacy =>
      have hy : y ∈ regsOfInstr (.shr x y) s := by simp [regsOfInstr, hc]
      simp only [effect, hc]; exact (((h0.setReg _ hy).setReg _ hx).setFlag _ hVF).advance
  | ldI | ldF => exact (h0.setI _ rfl).advance
  | rnd x => exact ((h0.tookDraw rfl).setReg _ (List.mem_singleton_self x)).advance
  | drw => exact ((h0.setScreen _ rfl).setFlag _ (List.mem_singleton_self _)).advance
  | ldVxK => exact h0.beginWait _ rfl
  | ldDTVx => exact (h0.setDt _ rfl).advance
  | ldSTVx => exact (h0.setSt _ rfl).advance
  | addI => exact ((h0.setI _ rfl).setFlag _ (List.mem_singleton_self _)).advance
  | ldB x => exact (h0.setMem _ fun a ha => Memory.get_putAll_three_other s.mem (length_bcdDigits _) ha).advance
  | storeRegs x => exact ((h0.setMem _ fun a ha => Memory.get_putAll_blockBytes_other s x ha).setI _ rfl).advance
  | loadRegs x => exact ((h0.setRegs _ fun r hr => getElem_blockRegs_other s hr).setI _ rfl).advance

/-- Settles O21: a fault changes no register, and the frame names the others. -/
theorem onlyListedRegistersChange : Obligations.OnlyListedRegistersChange := by
  intro i s t h r hr
  obtain rfl | ⟨f, rfl⟩ := exec_cases h
  · exact (effect_changesOnly i s).regs r hr
  · exact reg_raise s f r

/-- Settles O24: in the frame of `CALL` and `RET` alone the stack may change, and `RET` keeps its entries. -/
theorem onlyCallAndRetTouchStack : Obligations.OnlyCallAndRetTouchStack := by
  intro i s t h
  have hframe := effect_changesOnly i s
  obtain rfl | ⟨f, rfl⟩ := exec_cases h
  · cases i with
    | call nnn => exact ⟨fun _ => ⟨nnn, rfl⟩, fun _ => .inr ⟨nnn, rfl⟩⟩
    | ret => exact ⟨fun hne => absurd rfl hne, fun _ => .inl rfl⟩
    | _ =>
      obtain ⟨hsp, hstack⟩ := hframe.stack rfl
      exact ⟨fun hne => absurd hstack hne, fun hne => absurd hsp hne⟩
  · exact ⟨fun hne => absurd rfl hne, fun hne => absurd rfl hne⟩

/-! ### The tables -/

theorem effect_engineState_ne_faulted {s : State} (he : s.engineState = .running) (i : Instr) :
    (effect i s).engineState ≠ .faulted := by
  rw [effect_engineState, he]
  split <;> nofun

/-- Settles O18: the fault is the table's, and an instruction without one does not lead to FAULTED. -/
theorem faultsExactlyAsTabled : Obligations.FaultsExactlyAsTabled := by
  intro i s he hsp
  refine ⟨_, exec_eq_afterInstr i s, ?_⟩
  rw [← raisedFault_eq_faultOfTable hsp]
  cases hf : raisedFault i s with
  | none => simp [afterInstr_of_none hf, effect_engineState_ne_faulted he]
  | some f =>
    rw [afterInstr_of_some hf]
    exact ⟨⟨fun _ => rfl, fun _ => rfl⟩, fun g hg => Option.some.inj hg ▸ rfl⟩

/-- The engine state after an instruction of a RUNNING engine (R200). -/
theorem afterInstr_engineState {s : State} (he : s.engineState = .running) (hsp : s.sp.toNat ≤ s.stackCap)
    (i : Instr) : (afterInstr i s).engineState =
      if (faultOfTable i s).isSome then .faulted else match i with | .ldVxK _ => .awaitingKey | _ => .running := by
  rw [← raisedFault_eq_faultOfTable hsp]
  cases hf : raisedFault i s with
  | none => rw [afterInstr_of_none hf, effect_engineState, he]; rfl
  | some f => rw [afterInstr_of_some hf]; rfl

theorem pc_invalid_iff (pc : Word) : (pc.toNat > 0xFFE ∨ pc.toNat % 2 = 1) ↔ pcFault pc ≠ none := by
  rw [Ne, pcFault_eq_none_iff]; omega

/-- `step()` leads to the engine state of R200's table. -/
theorem engineStep_engineState {s t : State} (hsp : s.sp.toNat ≤ s.stackCap) (h : engineStep s = .next t) :
    t.engineState = engineStateOfTable s := by
  obtain ⟨he, rfl⟩ | ⟨he, hl, rfl⟩ | ⟨he, hl, rfl⟩ | ⟨he, f, hpc, rfl⟩ | ⟨he, hpc, hd, rfl⟩ | ⟨he, hpc, i, hd, hi⟩ :=
    engineStep_cases h
  · simp [engineStateOfTable, he]
  · simp [engineStateOfTable, he, hl]
  · simp [engineStateOfTable, he, hl]
  · simp [engineStateOfTable, he, pc_invalid_iff, hpc]
  · simp [engineStateOfTable, he, pc_invalid_iff, hpc, hd, skipUnrecognised]
  · rw [eq_afterInstr_of_exec hi, afterInstr_engineState he hsp]
    simp only [engineStateOfTable, he, pc_invalid_iff, hpc, hd, ne_eq, not_true_eq_false, if_false]
    cases i <;> rfl

/-- Settles O19: the table for `step()`; the host's other calls leave the field alone. -/
theorem engineTransitionTable : Obligations.EngineTransitionTable := by
  intro s
  refine ⟨fun hc hsp => ?step, fun e => ?tick, fun k p => ?setKey, rfl⟩
  case step =>
    obtain ⟨t, ht⟩ := engineStep_total s
    exact ⟨t, (step_of_nil hc).trans ht, engineStep_engineState hsp ht⟩
  case tick => obtain ⟨_, _, _, _, _, ht, -, -⟩ := tick_changes e s; rw [ht]
  case setKey => obtain ⟨_, _, _, hk, -⟩ := setKey_changes k p s; rw [hk]

/-! I advanced by X + 1 is a write of I (R144). -/

theorem advanceI_i (s : State) (x : Reg) : (s.advanceI x).i = BitVec.ofNat 16 (s.i.toNat + x.val + 1) := by
  rw [← blockBound_eq]; rfl

theorem advanceI_pc (s : State) (x : Reg) : (s.advanceI x).pc = s.pc := rfl

theorem advanceI_mem (s : State) (x : Reg) : (s.advanceI x).mem = s.mem := rfl

theorem advanceI_reg (s : State) (x r : Reg) : (s.advanceI x).reg r = s.reg r := rfl

theorem absolute_eq_ofNat (nnn : Addr12) : absolute nnn = BitVec.ofNat 16 nnn.toNat := by
  have := nnn.isLt
  apply BitVec.eq_of_toNat_eq; rw [toNat_absolute, BitVec.toNat_ofNat]; omega

theorem indexedTarget_eq_ofNat (s : State) (nnn : Addr12) :
    indexedTarget s nnn = BitVec.ofNat 16 (nnn.toNat + (s.reg V0).toNat) := by
  have := nnn.isLt
  have := (s.reg V0).isLt
  apply BitVec.eq_of_toNat_eq; rw [toNat_indexedTarget, BitVec.toNat_ofNat]; omega

/-- An instruction that does not fault moves pc as the table of R96 says. -/
theorem effect_pc (i : Instr) (s : State) : (effect i s).pc = pcOfTable i s := by
  cases i with
  | jp nnn | call nnn => exact absolute_eq_ofNat nnn
  | jpV0 nnn => exact indexedTarget_eq_ofNat s nnn
  | seImm | sneImm | seReg | sneReg => simp only [effect, skipIf_pc, beq_iff_eq, bne_iff_ne]; rfl
  | skp => rfl
  | sknp x =>
    show (if !keyPressed s (s.reg x) then s.pc + 4 else s.pc + 2) =
      if keyPressed s (s.reg x) then s.pc + 2 else s.pc + 4
    cases keyPressed s (s.reg x) <;> rfl
  | shr | shl => simp only [effect]; split <;> rfl
  | storeRegs | loadRegs => simp only [effect, advance_pc, advanceI_pc, setMem_pc, setRegs_pc]; rfl
  | _ => rfl

/-- Settles O20: an instruction that faults keeps pc, one that does not moves it by the table. -/
theorem pcAdvanceTable : Obligations.PcAdvanceTable := by
  refine ⟨fun i s he => ⟨_, exec_eq_afterInstr i s, ?instr⟩, fun s hc he hl => ?wait,
    fun s hc he hle heven hd => ?skip⟩
  case instr =>
    cases hf : raisedFault i s with
    | none => rw [afterInstr_of_none hf, if_neg (effect_engineState_ne_faulted he i), effect_pc]
    | some f => rw [afterInstr_of_some hf]; rfl
  case wait => exact ⟨_, (step_of_nil hc).trans (engineStep_of_latchIdle he hl), rfl⟩
  case skip =>
    exact ⟨_, (step_of_nil hc).trans (engineStep_of_unrecognised he (pcFault_of_valid hle heven) hd), rfl⟩

end Sys2Proof.Machine
end

section
/-! PROOFS. The timer agent and the input latch of `spec/60_exceptions.md`: a tick as one update of the state, the
untimed view, one decrement in a period, and the press edge. -/

namespace Sys2Proof.Machine

/-! ### A tick -/

/-- The decrement of a byte saturates at 0 and is that of 8-bit arithmetic above it. -/
theorem ofNat_pred_of_zero {b : Byte} (h : b = 0) : BitVec.ofNat 8 (b.toNat - 1) = b := by rw [h]; rfl

theorem ofNat_pred_of_ne_zero {b : Byte} (h : b ≠ 0) : BitVec.ofNat 8 (b.toNat - 1) = b - 1 := by
  have hpred := toNat_pred h
  have := b.isLt
  apply BitVec.eq_of_toNat_eq; rw [BitVec.toNat_ofNat]; omega

theorem delayTick_eq (s : State) : delayTick s = { s with dt := BitVec.ofNat 8 (s.dt.toNat - 1) } := by
  unfold delayTick
  split
  · next h => rw [ofNat_pred_of_zero h]
  · next h => rw [ofNat_pred_of_ne_zero h]; rfl

theorem soundTick_eq (s : State) : soundTick s = { s with
    st := BitVec.ofNat 8 (s.st.toNat - 1)
    outputs := if s.st = 1 then .stopTone :: s.outputs else s.outputs } := by
  unfold soundTick
  split
  · next h => rw [ofNat_pred_of_zero h, if_neg (h ▸ by decide)]
  · next h =>
    rw [ofNat_pred_of_ne_zero h]
    split
    · next h1 => rw [h1]; rfl
    · rfl

theorem tickDelay_eq (e : Rat) (s : State) : tickDelay e s = { s with
    dtPhase := if 1 / 60 ≤ s.dtPhase + e then 0 else s.dtPhase + e
    dt := if 1 / 60 ≤ s.dtPhase + e then BitVec.ofNat 8 (s.dt.toNat - 1) else s.dt } := by
  simp only [tickDelay, Config.timerPeriod, delayTick_eq]
  split <;> rfl

theorem tickSound_eq (e : Rat) (s : State) : tickSound e s = { s with
    stPhase := if 1 / 60 ≤ s.stPhase + e then 0 else s.stPhase + e
    st := if 1 / 60 ≤ s.stPhase + e then BitVec.ofNat 8 (s.st.toNat - 1) else s.st
    outputs := if 1 / 60 ≤ s.stPhase + e ∧ s.st = 1 then .stopTone :: s.outputs else s.outputs } := by
  simp only [tickSound, Config.timerPeriod, soundTick_eq]
  by_cases h : 1 / 60 ≤ s.stPhase + e <;> simp only [h, if_true, if_false, true_and, false_and]

theorem tick_of_neg {e : Rat} (h : e < 0) (s : State) : tick e s = s := if_pos h

/-- A tick as one update of the timers, the phases and the events (R210, R212). -/
theorem tick_of_nonneg {e : Rat} (h : 0 ≤ e) (s : State) : tick e s = { s with
    dtPhase := if 1 / 60 ≤ s.dtPhase + e then 0 else s.dtPhase + e
    dt := if 1 / 60 ≤ s.dtPhase + e then BitVec.ofNat 8 (s.dt.toNat - 1) else s.dt
    stPhase := if 1 / 60 ≤ s.stPhase + e then 0 else s.stPhase + e
    st := if 1 / 60 ≤ s.stPhase + e then BitVec.ofNat 8 (s.st.toNat - 1) else s.st
    outputs := if 1 / 60 ≤ s.stPhase + e ∧ s.st = 1 then .stopTone :: s.outputs else s.outputs } := by
  rw [tick, if_neg (not_lt.2 h), tickSound_eq, tickDelay_eq]

/-- Settles O54: the delay timer's share, then the sound timer's, which look at different fields. -/
theorem tickCountsDown : Obligations.TickCountsDown := fun _ s =>
  ⟨fun h => tick_of_neg h s, fun h => tick_of_nonneg h s⟩

/-- Settles O55: which of the four behaviours it is depends on which of the two phases reach the period. -/
theorem tickRefinesUntimedView : Obligations.TickRefinesUntimedView := by
  intro e s
  rcases lt_or_ge e 0 with hneg | hnonneg
  · exact ⟨s, by simp, by rw [tick_of_neg hneg]⟩
  · rw [tick_of_nonneg hnonneg]
    by_cases hd : 1 / 60 ≤ s.dtPhase + e <;> by_cases hs : 1 / 60 ≤ s.stPhase + e
    · exact ⟨soundTick (delayTick s), by simp, by simp only [hd, hs, delayTick_eq, soundTick_eq, if_true, true_and]⟩
    · exact ⟨delayTick s, by simp, by simp only [hd, hs, delayTick_eq, if_true, if_false, false_and]⟩
    · exact ⟨soundTick s, by simp, by simp only [hd, hs, soundTick_eq, if_true, if_false, true_and]⟩
    · exact ⟨s, by simp, by simp only [hd, hs, if_false, false_and]⟩

/-! ### Many ticks in a period -/

/-- A tick that does not reach the period adds to the phase only. -/
theorem tick_below_period {e : Rat} {s : State} (he : 0 ≤ e) (h : s.dtPhase + e < 1 / 60) :
    (tick e s).dt = s.dt ∧ (tick e s).dtPhase = s.dtPhase + e := by
  rw [tick_of_nonneg he]
  exact ⟨if_neg (not_le.2 h), if_neg (not_le.2 h)⟩

/-- While the elapsed times do not sum up to the period the phase is their sum and the delay timer stays. -/
theorem ticks_below_period {es : List Rat} {s : State} (hes : ∀ x ∈ es, 0 ≤ x) (h : s.dtPhase + es.sum < 1 / 60) :
    (es.foldl (fun u x => tick x u) s).dt = s.dt ∧
      (es.foldl (fun u x => tick x u) s).dtPhase = s.dtPhase + es.sum := by
  induction es generalizing s with
  | nil => exact ⟨rfl, (add_zero _).symm⟩
  | cons x xs ih =>
    obtain ⟨hx, hxs⟩ := List.forall_mem_cons.1 hes
    rw [List.sum_cons, ← add_assoc] at h
    have hfirst : s.dtPhase + x < 1 / 60 := (le_add_of_nonneg_right (List.sum_nonneg hxs)).trans_lt h
    obtain ⟨hdt, hphase⟩ := tick_below_period hx hfirst
    obtain ⟨hdt', hphase'⟩ := ih (s := tick x s) hxs (hphase ▸ h)
    rw [List.foldl_cons, List.sum_cons, ← add_assoc, ← hphase]
    exact ⟨hdt'.trans hdt, hphase'⟩

/-- Settles O56: the phase before the last tick is the sum of the elapsed times, so the last tick is the one that
reaches the period. -/
theorem ticksOfOnePeriodDecrementOnce : Obligations.TicksOfOnePeriodDecrementOnce := by
  intro es e s h0 hes he hlt hle
  obtain ⟨hdt, hphase⟩ := ticks_below_period (s := s) hes (by rwa [h0, zero_add])
  refine ⟨?_, hdt⟩
  rw [h0, zero_add] at hphase
  have hlt256 := s.dt.isLt
  rw [tick_of_nonneg he, hdt, hphase]
  simp only [if_pos hle, BitVec.toNat_ofNat]
  omega

/-! ### The press edge -/

theorem setKey_of_outside {k : Int} (h : k < 0 ∨ 15 < k) (p : Bool) (s : State) : setKey k p s = s :=
  dif_neg (by omega)

theorem setKey_of_index (j : Fin 16) (p : Bool) (s : State) : setKey j.val p s = latchKey j p s :=
  dif_pos (by omega)

/-- Settles O57: the condition of the latch is the press edge. -/
theorem setKeyFulfilsWaitOnEdge : Obligations.SetKeyFulfilsWaitOnEdge := by
  refine fun k p s => ⟨fun h => setKey_of_outside h p s, ?_⟩
  rintro j rfl
  rw [setKey_of_index]
  have hedge : (s.latchWaiting && !s.keys[j.val] && p) = true ↔
      s.latchWaiting = true ∧ s.keys[j.val] = false ∧ p = true := by
    simp only [Bool.and_eq_true, Bool.not_eq_true', and_assoc]
  refine ⟨fun h => ?_, fun h => if_neg (hedge.not.2 h)⟩
  have ⟨_, _, hpressed⟩ := h
  subst hpressed
  exact if_pos (hedge.2 h)

end Sys2Proof.Machine
end

section
/-! PROOFS. The invariant of `spec/10_state.md` R39: what an instruction that does not fault does to each part of it,
then every event, then reset and initialisation. -/

namespace Sys2Proof.Machine

open State

/-! ### What the absence of a fault says -/

section
variable {s : State}

theorem sp_lt_of_raisedFault_call {nnn : Addr12} (hf : raisedFault (.call nnn) s = none) : s.sp.toNat < s.stackCap := by
  by_contra h
  simp [raisedFault, h] at hf

theorem sp_pos_of_raisedFault_ret (hf : raisedFault .ret s = none) : 0 < s.sp.toNat := by
  by_contra h
  simp [raisedFault, faultOfTable, Nat.eq_zero_of_not_pos h] at hf

theorem le_of_raisedFault_ldB {x : Reg} (hf : raisedFault (.ldB x) s = none) : s.i.toNat + 2 ≤ 0xFFF := by
  by_contra h
  simp [raisedFault, faultOfTable, Nat.lt_of_not_le h] at hf

/-- The two block transfers have one row of R201. -/
theorem le_of_raisedFault_block {x : Reg} (hf : raisedFault (.storeRegs x) s = none) :
    s.i.toNat + x.val + 1 ≤ 0xFFF := by
  by_contra h
  simp [raisedFault, faultOfTable, Nat.lt_of_not_le h] at hf

end

/-! ### Each part of the invariant after an instruction -/

section
variable {s : State} {i : Instr}

/-- I stays within 12 bits (R22). -/
theorem effect_index_le (h : s.i.toNat ≤ 0xFFF) (hf : raisedFault i s = none) : (effect i s).i.toNat ≤ 0xFFF := by
  have hframe := effect_changesOnly i s
  cases i with
  | ldI nnn => exact (toNat_absolute nnn).trans_le (Nat.le_of_lt_succ nnn.isLt)
  | addI x => exact (toNat_indexSum _ _).trans_le (Nat.le_of_lt_succ (Nat.mod_lt _ (by decide)))
  | ldF x =>
    have := (s.reg x).isLt
    exact (toNat_glyphAddr _).trans_le (by omega)
  | storeRegs x | loadRegs x =>
    have hle := le_of_raisedFault_block (x := x) hf
    simp only [effect, advance_i, advanceI_i, setMem_i, setRegs_i, BitVec.toNat_ofNat]; omega
  | _ => exact (congrArg BitVec.toNat (hframe.index rfl)).trans_le h

theorem toNat_pc_add_two (h : s.pc.toNat ≤ 0xFFE) : (s.pc + 2).toNat = s.pc.toNat + 2 := by
  rw [BitVec.toNat_add]; simp; omega

theorem toNat_pc_add_four (h : s.pc.toNat ≤ 0xFFE) : (s.pc + 4).toNat = s.pc.toNat + 4 := by
  rw [BitVec.toNat_add]; simp; omega

/-- An instruction moves pc by at most 4, to a target of at most 0xFFF + 255, or to a stack entry in use (R23). -/
theorem effect_counter_le (hpc : s.pc.toNat ≤ 0xFFE)
    (hentries : ∀ k, k < s.sp.toNat → ((s.stack[k]?).getD 0).toNat ≤ 0x1000) (hf : raisedFault i s = none) :
    (effect i s).pc.toNat ≤ 0x10FE := by
  have h2 := toNat_pc_add_two hpc
  have h4 := toNat_pc_add_four hpc
  rw [effect_pc]
  cases i with
  | jp nnn | call nnn =>
    have := nnn.isLt
    simp only [pcOfTable, BitVec.toNat_ofNat]; omega
  | jpV0 nnn =>
    have := nnn.isLt
    have := (s.reg 0).isLt
    simp only [pcOfTable, BitVec.toNat_ofNat]; omega
  | ret =>
    have hpos := sp_pos_of_raisedFault_ret hf
    exact (hentries _ (Nat.sub_lt hpos Nat.one_pos)).trans (by decide)
  | seImm | sneImm | seReg | sneReg | skp | sknp => simp only [pcOfTable]; split <;> omega
  | ldVxK => simp only [pcOfTable]; omega
  | _ => simp only [pcOfTable]; omega

/-- `CALL` and `RET` keep the stack in order: the pushed address is at most 0x1000, and pops uncover older entries. -/
theorem effect_stack (hcap : s.stackCap ≤ 255) (hdepth : s.sp.toNat ≤ s.stackCap) (hpc : s.pc.toNat ≤ 0xFFE)
    (hentries : ∀ k, k < s.sp.toNat → ((s.stack[k]?).getD 0).toNat ≤ 0x1000) (hf : raisedFault i s = none) :
    (effect i s).stackCap = s.stackCap ∧ (effect i s).sp.toNat ≤ s.stackCap ∧
      ∀ k, k < (effect i s).sp.toNat → (((effect i s).stack[k]?).getD 0).toNat ≤ 0x1000 := by
  have hframe := effect_changesOnly i s
  cases i with
  | call nnn =>
    have hlt : s.sp.toNat < s.stack.length := sp_lt_of_raisedFault_call hf
    have hsp : (s.sp + 1).toNat = s.sp.toNat + 1 := by rw [BitVec.toNat_add]; simp [stackCap] at hcap ⊢; omega
    refine ⟨List.length_set, hsp.trans_le hlt, fun k hk => ?_⟩
    show (((s.stack.set s.sp.toNat (s.pc + 2))[k]?).getD 0).toNat ≤ 0x1000
    rw [List.getElem?_set]
    split
    · rw [Option.getD_some, toNat_pc_add_two hpc]; omega
    · exact hentries k (by have : k < (s.sp + 1).toNat := hk; omega)
  | ret =>
    have hpos := sp_pos_of_raisedFault_ret hf
    have hsp : (s.sp - 1).toNat + 1 = s.sp.toNat := toNat_pred fun h => by simp [h] at hpos
    refine ⟨rfl, ?_, fun k hk => hentries k ?_⟩
    · show (s.sp - 1).toNat ≤ s.stackCap
      omega
    · have : k < (s.sp - 1).toNat := hk
      omega
  | _ =>
    obtain ⟨hsp, hstack⟩ := hframe.stack rfl
    rw [hsp, hstack, stackCap, hstack]
    exact ⟨rfl, hdepth, hentries⟩

/-- Memory changes by the two stores alone. -/
theorem effect_mem (i : Instr) (s : State) :
    (effect i s).mem = s.mem ∨ (∃ x, i = .ldB x) ∨ ∃ x, i = .storeRegs x := by
  cases i with
  | ldB x => exact .inr (.inl ⟨x, rfl⟩)
  | storeRegs x => exact .inr (.inr ⟨x, rfl⟩)
  | shr | shl => simp only [effect]; split <;> exact .inl rfl
  | loadRegs => exact .inl (by simp only [effect, advance_mem, advanceI_mem, setRegs_mem])
  | _ => exact .inl rfl

theorem effect_mem_wf (hm : s.mem.wf) (hf : raisedFault i s = none) : (effect i s).mem.wf := by
  obtain h | ⟨x, rfl⟩ | ⟨x, rfl⟩ := effect_mem i s
  · rwa [h]
  · have hle := le_of_raisedFault_ldB hf
    refine Memory.putAll_wf hm _ _ ?_
    simp only [length_bcdDigits, effAddr, Config.memSize]; omega
  · have hle := le_of_raisedFault_block hf
    refine Memory.putAll_wf hm _ _ ?_
    simp only [length_blockBytes, effAddr, Config.memSize]; omega

end

/-! ### Each case of an event -/

namespace State.Inv

variable {s : State}

theorem latchWaiting_of_ne (h : s.Inv) (he : s.engineState ≠ .awaitingKey) : s.latchWaiting = false :=
  Bool.eq_false_iff.2 fun hl => he (h.waiting hl)

/-- An instruction of a RUNNING engine that does not fault. -/
theorem effect {i : Instr} (h : s.Inv) (he : s.engineState = .running) (hpc : pcFault s.pc = none)
    (hd : decodeWord (fetchWord s) = some i) (hf : raisedFault i s = none) : (effect i s).Inv := by
  have hframe := effect_changesOnly i s
  obtain ⟨hle, heven⟩ := (pcFault_eq_none_iff _).1 hpc
  obtain ⟨hcap, hdepth, hentries⟩ := effect_stack h.capacity.2 h.depth hle h.entries hf
  obtain ⟨-, -, hreason, hdtPhase, hstPhase, -, -⟩ := effect_keeps i s
  have hrunning : s.latchWaiting = false := h.latchWaiting_of_ne (by rw [he]; nofun)
  have hlatch : ((Machine.effect i s).latchWaiting = true → (Machine.effect i s).engineState = .awaitingKey) ∧
      ((Machine.effect i s).engineState = .awaitingKey → i = .ldVxK (Machine.effect i s).latchTarget ∧
        (Machine.effect i s).pc = s.pc ∧ (Machine.effect i s).mem = s.mem) := by
    cases i with
    | ldVxK x => exact ⟨fun _ => rfl, fun _ => ⟨rfl, rfl, rfl⟩⟩
    | _ =>
      obtain ⟨hl, -, hes⟩ := hframe.latch rfl
      rw [hl, hes, he, hrunning]
      exact ⟨nofun, nofun⟩
  exact {
    index := effect_index_le h.index hf
    depth := hcap ▸ hdepth
    entries := hentries
    counter := effect_counter_le hle h.entries hf
    waiting := hlatch.1
    parked := fun hes => by
      obtain ⟨hi, hpc', hmem'⟩ := hlatch.2 hes
      rw [fetchWord, hpc', hmem', ← hi]
      exact ⟨heven, hle, hd⟩
    reason := by
      rw [hreason, h.reason, he]
      exact ⟨fun _ => effect_engineState_ne_faulted he i, fun _ => nofun⟩
    memory := effect_mem_wf h.memory hf
    capacity := hcap ▸ h.capacity
    dtPhase := hdtPhase ▸ h.dtPhase
    stPhase := hstPhase ▸ h.stPhase }

theorem raise (h : s.Inv) (he : s.engineState = .running) (f : Fault) : (s.raise f).Inv :=
  { h with
    waiting := fun hl => by rw [raise_latchWaiting, h.latchWaiting_of_ne (by rw [he]; nofun)] at hl; cases hl
    parked := nofun
    reason := by simp }

theorem skipUnrecognised (h : s.Inv) (he : s.engineState = .running) (hpc : pcFault s.pc = none) (w : Word) :
    (skipUnrecognised w s).Inv := by
  obtain ⟨hle, -⟩ := (pcFault_eq_none_iff _).1 hpc
  exact { h with
    counter := (toNat_pc_add_two hle).trans_le (by omega)
    parked := fun hes => by cases he.symm.trans hes }

theorem endWait (h : s.Inv) (he : s.engineState = .awaitingKey) (hl : s.latchWaiting = false) : s.endWait.Inv := by
  obtain ⟨-, hle, -⟩ := h.parked he
  exact { h with
    counter := (toNat_pc_add_two hle).trans_le (by omega)
    waiting := fun hl' => by cases hl.symm.trans hl'
    parked := nofun
    reason := by simp [h.reason, he] }

theorem engineStep {t : State} (h : s.Inv) (hstep : engineStep s = .next t) : t.Inv := by
  obtain ⟨he, rfl⟩ | ⟨he, hl, rfl⟩ | ⟨he, hl, rfl⟩ | ⟨he, f, hpc, rfl⟩ | ⟨he, hpc, hd, rfl⟩ | ⟨he, hpc, i, hd, hi⟩ :=
    engineStep_cases hstep
  · exact h
  · exact h
  · exact h.endWait he hl
  · exact h.raise he f
  · exact h.skipUnrecognised he hpc _
  · rw [eq_afterInstr_of_exec hi]
    cases hf : raisedFault i s with
    | none => rw [afterInstr_of_none hf]; exact h.effect he hpc hd hf
    | some f => rw [afterInstr_of_some hf]; exact h.raise he f

theorem withHostCalls (h : s.Inv) (calls : List HostCall) : { s with hostCalls := calls }.Inv := { h with }

/-- A phase that does not reach the period takes the time up, one that does is reset. -/
theorem phase_after_tick {c e : Rat} (hc : 0 ≤ c) (he : 0 ≤ e) :
    0 ≤ (if 1 / 60 ≤ c + e then 0 else c + e) ∧ (if 1 / 60 ≤ c + e then 0 else c + e) < Config.timerPeriod := by
  unfold Config.timerPeriod
  split
  · exact ⟨le_rfl, by norm_num⟩
  · next h => exact ⟨add_nonneg hc he, not_le.1 h⟩

theorem tick (h : s.Inv) (e : Rat) : (tick e s).Inv := by
  rcases lt_or_ge e 0 with hneg | hnonneg
  · rwa [tick_of_neg hneg]
  · rw [tick_of_nonneg hnonneg]
    exact { h with
      dtPhase := phase_after_tick h.dtPhase.1 hnonneg
      stPhase := phase_after_tick h.stPhase.1 hnonneg }

theorem setKey (h : s.Inv) (k : Int) (p : Bool) : (setKey k p s).Inv := by
  obtain ⟨keys, v, waiting, hk, hw⟩ := setKey_changes k p s
  rw [hk]
  exact { h with waiting := fun hl => h.waiting (hw hl) }

theorem clearDamaged (h : s.Inv) : (clearDamaged s).Inv := { h with }

end State.Inv

/-- Settles O15: taking the call keeps the invariant, and so does each event. -/
theorem stepKeepsInvariant : Obligations.StepKeepsInvariant := by
  intro s t h hstep
  obtain ⟨-, hengine⟩ | ⟨e, rest, -, rfl⟩ | ⟨k, p, rest, -, rfl⟩ | ⟨rest, -, rfl⟩ := step_cases hstep
  · exact (h.withHostCalls _).engineStep hengine
  · exact (h.withHostCalls rest).tick e
  · exact (h.withHostCalls rest).setKey k p
  · exact (h.withHostCalls rest).clearDamaged

/-! ### Reset and initialisation -/

theorem loadedMemory_wf {p : Params} (hp : p.wf) {rom : List Byte} (hrom : rom.length ≤ 3584) :
    (loadedMemory p rom).wf := by
  obtain ⟨-, -, hfont⟩ := hp
  refine Memory.putAll_wf (Memory.putAll_wf Memory.wf_nil _ _ ?_) _ _ ?_
  · rw [hfont]; decide
  · simp only [Config.progBase, Config.memSize]; omega

/-- The state after reset with another stack capacity, memory and `COMPAT`. -/
theorem reset_with_inv {cap : Nat} (hcap : 16 ≤ cap ∧ cap ≤ 255) {m : Memory} (hm : m.wf) (c : Compat) :
    { State.reset with stack := List.replicate cap 0, mem := m, compat := c }.Inv where
  index := Nat.zero_le _
  depth := Nat.zero_le _
  entries := nofun
  counter := show (0x0200 : Word).toNat ≤ 0x10FE by decide
  waiting := nofun
  parked := nofun
  reason := ⟨fun _ => nofun, fun _ => rfl⟩
  memory := hm
  capacity := by rwa [stackCap, List.length_replicate]
  dtPhase := ⟨le_rfl, by norm_num [Config.timerPeriod, State.reset]⟩
  stPhase := ⟨le_rfl, by norm_num [Config.timerPeriod, State.reset]⟩

/-- Settles O14: reset is the case of the default capacity and an empty memory. -/
theorem resetMeetsInvariant : Obligations.ResetMeetsInvariant :=
  reset_with_inv (cap := Config.defaultStackCap) (by decide) Memory.wf_nil .modern

/-- Settles O16: the admitted parameters bound the capacity, and the two copies stay inside memory. -/
theorem initMeetsInvariant : Obligations.InitMeetsInvariant := by
  intro p rom c s hp hinit
  obtain ⟨hrom, rfl⟩ := initMachine_ok hinit
  have ⟨hmin, hmax, _⟩ := hp
  exact reset_with_inv ⟨hmin, hmax⟩ (loadedMemory_wf hp hrom) c

end Sys2Proof.Machine
end

section
/-! PROOFS. Who writes what, over every event of `spec/40_step_cycle.md`: memory, the pixels, the keys, the delay timer,
`COMPAT`; and what instructions do not read. -/

namespace Sys2Proof.Machine

open State

/-! ### Everything an event can write -/

/-- An engine step that runs no instruction to its end changes pc, the engine state, the fault reason and the events. -/
theorem engineStep_writes {s t : State} (h : engineStep s = .next t) :
    (∃ i, s.engineState = .running ∧ decodeWord (fetchWord s) = some i ∧ t = effect i s) ∨
    ∃ pc es reason outputs,
      t = { s with pc := pc, engineState := es, faultReason := reason, outputs := outputs } := by
  obtain ⟨-, rfl⟩ | ⟨-, -, rfl⟩ | ⟨-, -, rfl⟩ | ⟨-, f, -, rfl⟩ | ⟨-, -, -, rfl⟩ | ⟨he, -, i, hd, hi⟩ :=
    engineStep_cases h
  · exact .inr ⟨_, _, _, _, rfl⟩
  · exact .inr ⟨_, _, _, _, rfl⟩
  · exact .inr ⟨_, _, _, _, rfl⟩
  · exact .inr ⟨_, _, _, _, rfl⟩
  · exact .inr ⟨_, _, _, _, rfl⟩
  · obtain rfl | ⟨f, rfl⟩ := exec_cases hi
    · exact .inl ⟨i, he, hd, rfl⟩
    · exact .inr ⟨_, _, _, _, rfl⟩

/-- Every event: an instruction run to its end, another engine step, a tick, a key event, a framebuffer read. -/
theorem step_writes {s t : State} (h : step s = .next t) :
    (∃ i, RunsInstr s i ∧ t = effect i { s with hostCalls := s.hostCalls.tail }) ∨
    (∃ pc es reason outputs calls, t =
      { s with pc := pc, engineState := es, faultReason := reason, outputs := outputs, hostCalls := calls }) ∨
    (∃ e rest dt st dtPhase stPhase outputs, s.hostCalls = .tick e :: rest ∧
      t = { s with
        dt := dt, st := st, dtPhase := dtPhase, stPhase := stPhase, outputs := outputs, hostCalls := rest } ∧
      (dt = s.dt ∨ dt.toNat + 1 = s.dt.toNat)) ∨
    (∃ k p rest keys v waiting, s.hostCalls = .setKey k p :: rest ∧
      t = { s with keys := keys, v := v, latchWaiting := waiting, hostCalls := rest }) ∨
    ∃ rest, s.hostCalls = .readFramebuffer :: rest ∧ t = { s with damaged := false, hostCalls := rest } := by
  obtain ⟨hc, hengine⟩ | ⟨e, rest, hc, rfl⟩ | ⟨k, p, rest, hc, rfl⟩ | ⟨rest, hc, rfl⟩ := step_cases h
  · obtain ⟨i, he, hd, rfl⟩ | ⟨pc, es, reason, outputs, rfl⟩ := engineStep_writes hengine
    · exact .inl ⟨i, ⟨hc, he, hd⟩, rfl⟩
    · exact .inr (.inl ⟨pc, es, reason, outputs, _, rfl⟩)
  · obtain ⟨dt, st, dtPhase, stPhase, outputs, ht, hdt, -⟩ := tick_changes e { s with hostCalls := rest }
    exact .inr (.inr (.inl ⟨e, rest, dt, st, dtPhase, stPhase, outputs, hc, ht, hdt⟩))
  · obtain ⟨keys, v, waiting, ht, -⟩ := setKey_changes k p { s with hostCalls := rest }
    exact .inr (.inr (.inr (.inl ⟨k, p, rest, keys, v, waiting, hc, ht⟩)))
  · exact .inr (.inr (.inr (.inr ⟨rest, hc, rfl⟩)))

/-- Settles O22: only an instruction writes memory, and only two of them do. -/
theorem onlyTwoInstructionsStore : Obligations.OnlyTwoInstructionsStore := by
  intro s t h hne
  obtain ⟨i, hruns, rfl⟩ | ⟨_, _, _, _, _, rfl⟩ | ⟨_, _, _, _, _, _, _, -, rfl, -⟩ | ⟨_, _, _, _, _, _, -, rfl⟩ |
    ⟨_, -, rfl⟩ := step_writes h
  · obtain hmem | ⟨x, rfl⟩ | ⟨x, rfl⟩ := effect_mem i { s with hostCalls := s.hostCalls.tail }
    · exact absurd hmem hne
    · exact ⟨x, .inl hruns⟩
    · exact ⟨x, .inr hruns⟩
  all_goals exact absurd rfl hne

/-- `CLS` and `DRW` write the pixels and set `damaged`; every other instruction leaves both. -/
theorem effect_screen (i : Instr) (s : State) :
    ((effect i s).damaged = true ∧ (i = .cls ∨ ∃ x y n, i = .drw x y n)) ∨
      ((effect i s).fb = s.fb ∧ (effect i s).damaged = s.damaged) := by
  have hframe := effect_changesOnly i s
  cases i with
  | cls => exact .inl ⟨rfl, .inl rfl⟩
  | drw x y n => exact .inl ⟨rfl, .inr ⟨x, y, n, rfl⟩⟩
  | _ => exact .inr (hframe.screen rfl)

/-- Settles O23: of the events only an instruction writes pixels, and only the host's read clears the flag. -/
theorem screenWriters : Obligations.ScreenWriters := by
  intro s t h
  obtain ⟨i, hruns, rfl⟩ | ⟨_, _, _, _, _, rfl⟩ | ⟨_, _, _, _, _, _, _, -, rfl, -⟩ | ⟨_, _, _, _, _, _, -, rfl⟩ |
    ⟨rest, hc, rfl⟩ := step_writes h
  case inl =>
    obtain ⟨hdamaged, hi⟩ | ⟨hfb, hdamaged⟩ := effect_screen i { s with hostCalls := s.hostCalls.tail }
    · refine ⟨fun _ => ⟨hdamaged, ?_⟩, fun _ hclear => absurd hdamaged (by rw [hclear]; nofun)⟩
      obtain rfl | ⟨x, y, n, rfl⟩ := hi
      · exact .inl hruns
      · exact .inr ⟨x, y, n, hruns⟩
    · exact ⟨fun hne => absurd hfb hne, fun hset hclear => absurd (hdamaged.symm.trans hclear) (by rw [hset]; nofun)⟩
  case inr.inr.inr.inr => exact ⟨fun hne => absurd rfl hne, fun _ _ => ⟨rest, hc⟩⟩
  all_goals exact ⟨fun hne => absurd rfl hne, fun hset hclear => absurd (hset.symm.trans hclear) nofun⟩

/-- Settles O25: an instruction keeps the keys, and of the other events only a key event writes them. -/
theorem onlySetKeyChangesKeys : Obligations.OnlySetKeyChangesKeys := by
  intro s t h hne
  obtain ⟨i, -, rfl⟩ | ⟨_, _, _, _, _, rfl⟩ | ⟨_, _, _, _, _, _, _, -, rfl, -⟩ | ⟨k, p, rest, _, _, _, hc, rfl⟩ |
    ⟨_, -, rfl⟩ := step_writes h
  case inl => exact absurd (effect_changesOnly i _).keys hne
  case inr.inr.inr.inl => exact ⟨k, p, rest, hc⟩
  all_goals exact absurd rfl hne

/-- `LD DT, Vx` alone of the instructions writes the delay timer. -/
theorem effect_dt (i : Instr) (s : State) :
    (∃ x, i = .ldDTVx x ∧ (effect i s).dt = s.reg x) ∨ (effect i s).dt = s.dt := by
  have hframe := effect_changesOnly i s
  cases i with
  | ldDTVx x => exact .inl ⟨x, rfl, rfl⟩
  | _ => exact .inr (hframe.dt rfl)

/-- Settles O26: the instruction, or a tick, or an event that leaves the timer. -/
theorem delayTimerOnlyCountsDown : Obligations.DelayTimerOnlyCountsDown := by
  intro s t h
  obtain ⟨i, hruns, rfl⟩ | ⟨_, _, _, _, _, rfl⟩ | ⟨e, rest, _, _, _, _, _, hc, rfl, hdt⟩ |
    ⟨_, _, _, _, _, _, -, rfl⟩ | ⟨_, -, rfl⟩ := step_writes h
  case inl =>
    obtain ⟨x, rfl, hdt⟩ | hdt := effect_dt i { s with hostCalls := s.hostCalls.tail }
    · exact .inl ⟨x, hruns, hdt⟩
    · exact .inr (.inl hdt)
  case inr.inr.inl =>
    obtain hdt | hdt := hdt
    · exact .inr (.inl hdt)
    · exact .inr (.inr ⟨hdt, e, rest, hc⟩)
  all_goals exact .inr (.inl rfl)

/-- Settles O27: no event writes `COMPAT`, and initialisation takes it as given. -/
theorem compatNeverChanges : Obligations.CompatNeverChanges := by
  refine ⟨fun s t h => ?_, fun p rom c s hinit => ?_⟩
  · obtain ⟨i, -, rfl⟩ | ⟨_, _, _, _, _, rfl⟩ | ⟨_, _, _, _, _, _, _, -, rfl, -⟩ | ⟨_, _, _, _, _, _, -, rfl⟩ |
      ⟨_, -, rfl⟩ := step_writes h
    case inl => exact (effect_changesOnly i _).compat
    all_goals rfl
  · obtain ⟨-, rfl⟩ := initMachine_ok hinit
    rfl

/-! ### What instructions do not read -/

/-- The fault of an instruction does not depend on `COMPAT`. -/
theorem raisedFault_withCompat (i : Instr) (s : State) (c : Compat) :
    raisedFault i { s with compat := c } = raisedFault i s := by
  cases i <;> rfl

/-- The updates of an instruction other than a shift neither read nor write `COMPAT`. -/
theorem effect_withCompat {i : Instr} (hi : ∀ x y, i ≠ .shr x y ∧ i ≠ .shl x y) (s : State) (c : Compat) :
    effect i { s with compat := c } = { effect i s with compat := c } := by
  cases i with
  | shr x y => exact absurd rfl (hi x y).1
  | shl x y => exact absurd rfl (hi x y).2
  | _ => rfl

/-- Settles O28: fault and updates are the same under both values. -/
theorem compatAffectsOnlyShifts : Obligations.CompatAffectsOnlyShifts := by
  intro i s c hi
  refine ⟨_, exec_eq_afterInstr i s, ?_⟩
  rw [exec_eq_afterInstr, afterInstr, afterInstr, raisedFault_withCompat, effect_withCompat hi]
  cases raisedFault i s <;> rfl

theorem raisedFault_withSoundAndDamaged (i : Instr) (s : State) (b : Byte) (d : Bool) :
    raisedFault i { s with st := b, damaged := d } = raisedFault i s := by
  cases i <;> rfl

/-- An instruction may write the sound timer and `damaged`, from what it reads elsewhere. -/
theorem effect_withSoundAndDamaged (i : Instr) (s : State) (b : Byte) (d : Bool) :
    ∃ b' d', effect i { s with st := b, damaged := d } = { effect i s with st := b', damaged := d' } := by
  cases i with
  | shr | shl => obtain ⟨⟩ := s; next c _ _ _ _ _ => cases c <;> exact ⟨_, _, rfl⟩
  | _ => exact ⟨_, _, rfl⟩

/-- Settles O29: neither the fault nor the updates depend on them. -/
theorem soundTimerAndDamagedAreNotRead : Obligations.SoundTimerAndDamagedAreNotRead := by
  intro i s b d
  refine ⟨_, exec_eq_afterInstr i s, ?_⟩
  rw [exec_eq_afterInstr, afterInstr, afterInstr, raisedFault_withSoundAndDamaged]
  cases raisedFault i s with
  | none =>
    obtain ⟨b', d', h⟩ := effect_withSoundAndDamaged i s b d
    exact ⟨b', d', congrArg _ h⟩
  | some f => exact ⟨b, d, rfl⟩

end Sys2Proof.Machine
end

section
/-! PROOFS. Instructions one by one: control transfer (`spec/41_control_flow.md`), loads, logic, the left shift and the
random byte (`spec/42_alu.md`), the index register and the block transfers (`spec/43_index_memory.md`), keys and timers
(`spec/45_input_timers.md`). Each one's frame is that of `effect_changesOnly`. -/

namespace Sys2Proof.Machine

open State

/-! ### Where an instruction does not fault -/

theorem exec_of_none {i : Instr} {s : State} (h : raisedFault i s = none) : exec i s = .next (effect i s) :=
  (exec_eq_afterInstr i s).trans (congrArg _ (afterInstr_of_none h))

theorem exec_of_some {i : Instr} {s : State} {f : Fault} (h : raisedFault i s = some f) :
    exec i s = .next (s.raise f) :=
  (exec_eq_afterInstr i s).trans (congrArg _ (afterInstr_of_some h))

/-! ### Control transfer -/

/-- Settles O30: the entry at sp - 1 is the one uncovered. -/
theorem retPopsReturnAddress : Obligations.RetPopsReturnAddress := by
  intro s a
  refine ⟨fun h0 => exec_of_some (if_pos (congrArg BitVec.toNat h0)), fun hne htop => ?_⟩
  refine ⟨_, exec_of_none (if_neg fun h => hne (BitVec.eq_of_toNat_eq h)), ?_, toNat_pred hne, rfl,
    effect_changesOnly .ret s⟩
  rw [effect_pc, pcOfTable, htop, Option.getD_some]

/-- Settles O31: neither target wraps in 16 bits. -/
theorem jumpsSetPc : Obligations.JumpsSetPc := fun nnn s =>
  ⟨⟨_, rfl, toNat_absolute nnn, effect_changesOnly (.jp nnn) s⟩,
    ⟨_, rfl, toNat_indexedTarget s nnn, effect_changesOnly (.jpV0 nnn) s⟩⟩

/-- Settles O32: the entry written is the one at sp, and sp does not wrap below a capacity of 255. -/
theorem callPushesReturnAddress : Obligations.CallPushesReturnAddress := by
  intro nnn s hcap
  refine ⟨fun hfull => exec_of_some (if_neg hfull.not_lt), fun hroom => ?_⟩
  refine ⟨_, exec_of_none (if_pos hroom), toNat_absolute nnn, ?_, List.getElem?_set_self hroom,
    fun k hk => List.getElem?_set_ne hk.symm, List.length_set, effect_changesOnly (.call nnn) s⟩
  show (s.sp + 1).toNat = s.sp.toNat + 1
  rw [BitVec.toNat_add]; simp; omega

/-- Settles O33: bytes are equal when their numbers are. -/
theorem skipsCompare : Obligations.SkipsCompare := by
  intro x y nn s
  refine ⟨⟨_, rfl, ?_, effect_changesOnly (.seImm x nn) s⟩, ⟨_, rfl, ?_, effect_changesOnly (.sneImm x nn) s⟩,
    ⟨_, rfl, ?_, effect_changesOnly (.seReg x y) s⟩, ⟨_, rfl, ?_, effect_changesOnly (.sneReg x y) s⟩⟩
  all_goals
    simp only [skipIf_pc, beq_iff_eq, bne_iff_ne, ne_eq, ite_not, BitVec.toNat_inj]
    split <;> rfl

/-! ### Loads, logic, shift, random -/

/-- Settles O34: each is one write of VX. -/
theorem loadsAndAddImmediate : Obligations.LoadsAndAddImmediate := by
  intro x y nn s
  refine ⟨⟨_, rfl, reg_setReg_same s x _, rfl, effect_changesOnly (.ldImm x nn) s⟩,
    ⟨_, rfl, ?_, rfl, effect_changesOnly (.addImm x nn) s⟩,
    ⟨_, rfl, reg_setReg_same s x _, rfl, effect_changesOnly (.ldReg x y) s⟩⟩
  rw [reg_advance, reg_setReg_same, BitVec.toNat_add]

/-- Settles O35: each is one write of VX. -/
theorem logicIsBitwise : Obligations.LogicIsBitwise := by
  intro x y s
  refine ⟨⟨_, rfl, fun k => ?_, rfl, effect_changesOnly (.orReg x y) s⟩,
    ⟨_, rfl, fun k => ?_, rfl, effect_changesOnly (.andReg x y) s⟩,
    ⟨_, rfl, fun k => ?_, rfl, effect_changesOnly (.xorReg x y) s⟩⟩
  · rw [reg_advance, reg_setReg_same, BitVec.getLsbD_or]
  · rw [reg_advance, reg_setReg_same, BitVec.getLsbD_and]
  · rw [reg_advance, reg_setReg_same, BitVec.getLsbD_xor]

/-- Settles O40: the case split is on `COMPAT`, which says whose shift it is. -/
theorem shiftLeftInBothModes : Obligations.ShiftLeftInBothModes := by
  intro x y s
  cases hc : s.compat with
  | modern =>
    obtain ⟨t, ht, hval, hflag, hpc, hframe⟩ := shiftOutcome_modern_changes hc x y (· <<< 1) outLeft
    refine ⟨t, ht, hpc, fun _ => ⟨fun hx => ?_, ?_, hframe⟩, nofun⟩
    · rw [hval hx, toNat_double]
    · rw [hflag, toNat_flag, toNat_outLeft]
  | legacy =>
    obtain ⟨t, ht, hvalX, hvalY, hflag, hpc, hframe⟩ := shiftOutcome_legacy_changes hc x y (· <<< 1) outLeft
    refine ⟨t, ht, hpc, nofun, fun _ => ⟨fun hx => ?_, fun hy => ?_, ?_, hframe⟩⟩
    · rw [hvalX hx, toNat_double]
    · rw [hvalY hy, toNat_double]
    · rw [hflag, toNat_flag, toNat_outLeft]

/-- Settles O41: no bit of the draw passes a clear bit of the mask. -/
theorem randomByteUnderMask : Obligations.RandomByteUnderMask := by
  intro x nn s
  have hval : (effect (.rnd x nn) s).reg x = Config.draw8 s.draws &&& nn := by
    rw [effect, reg_advance, reg_setReg_same]
  refine ⟨_, rfl, hval, fun k hk => ?_, rfl, rfl, effect_changesOnly (.rnd x nn) s⟩
  have hand : (Config.draw8 s.draws &&& nn).getLsbD k = true := hval ▸ hk
  rw [BitVec.getLsbD_and, Bool.and_eq_true] at hand
  exact hand.2

/-! ### The index register -/

/-- Settles O42: NNN is zero-extended, so I holds its number. -/
theorem loadIndex : Obligations.LoadIndex := fun nnn s =>
  ⟨_, rfl, toNat_absolute nnn, rfl, effect_changesOnly (.ldI nnn) s⟩

theorem flag_indexOverflow (i : Word) (b : Byte) :
    flag (indexOverflow i b) = if i.toNat + b.toNat > 0xFFF then 1 else 0 := by
  simp only [flag, indexOverflow, decide_eq_true_eq, gt_iff_lt]

/-- Settles O43: the flag is the test of the sum before it is cut to 12 bits. -/
theorem addToIndexWithOverflow : Obligations.AddToIndexWithOverflow := by
  refine fun x s => ⟨_, rfl, toNat_indexSum _ _, ?_, rfl, effect_changesOnly (.addI x) s⟩
  rw [reg_advance, reg_setFlag, if_pos rfl, flag_indexOverflow]

/-- Settles O44: the test of the digit is the guard. -/
theorem fontAddress : Obligations.FontAddress := fun x s =>
  ⟨fun h => ⟨_, exec_of_none (if_neg h.not_gt), toNat_glyphAddr _, rfl, effect_changesOnly (.ldF x) s⟩,
    fun h => exec_of_some (if_pos h)⟩

/-! ### Block transfers -/

/-- Settles O46: the k-th byte stored is V[k], and every address outside the block stays. -/
theorem blockStore : Obligations.BlockStore := by
  refine fun x s hwf => ⟨fun hin => ?_, fun hout => exec_of_some (if_pos hout)⟩
  refine ⟨_, exec_of_none (if_neg hin.not_gt), fun k hk => ?_, ?_, ?_, effect_changesOnly (.storeRegs x) s⟩
  · have hfits : s.i.toNat + (blockBytes s x).length ≤ Config.memSize := by
      rw [length_blockBytes, Config.memSize]; omega
    have hlen : k.val < (blockBytes s x).length := by
      rw [length_blockBytes]; exact Nat.lt_succ_of_le hk
    simp only [effect, advance_mem, advanceI_mem, setMem_mem]
    exact (Memory.get_putAll hwf _ _ hfits hlen).trans (getElem_blockBytes s x k hk)
  · simp only [effect, advance_i, advanceI_i, setMem_i]
    exact blockBound_eq s x ▸ toNat_blockBound s x hin
  · rw [effect_pc]; rfl

/-- Settles O47: the k-th register takes the byte at I + k where k is at most X. -/
theorem blockLoad : Obligations.BlockLoad := by
  refine fun x s => ⟨fun hin => ?_, fun hout => exec_of_some (if_pos hout)⟩
  refine ⟨_, exec_of_none (if_neg hin.not_gt), fun k hk => ?_, ?_, ?_, effect_changesOnly (.loadRegs x) s⟩
  · rw [effect, reg_advance, advanceI_reg, reg_setRegs, getElem_blockRegs, if_pos hk]
  · simp only [effect, advance_i, advanceI_i, setRegs_i]
    exact blockBound_eq s x ▸ toNat_blockBound s x hin
  · rw [effect_pc]; rfl

/-! ### Keys and timers -/

theorem keyPressed_of_toNat_eq {s : State} {b : Byte} {k : Fin 16} (h : b.toNat = k.val) :
    keyPressed s b = s.keys[k.val] := by
  simp [keyPressed, h]

/-- Settles O51: the byte is the number of a key, or the guard faults. -/
theorem keySkips : Obligations.KeySkips := by
  intro x s
  refine ⟨fun k hk => ?_, fun h => ⟨exec_of_some (if_pos h), exec_of_some (if_pos h)⟩⟩
  have hin : ¬ 15 < (s.reg x).toNat := by have := k.isLt; omega
  have hkey : keyPressed s (s.reg x) = s.keys[k.val] := keyPressed_of_toNat_eq hk
  refine ⟨⟨_, exec_of_none (if_neg hin), ?_, effect_changesOnly (.skp x) s⟩,
    ⟨_, exec_of_none (if_neg hin), ?_, effect_changesOnly (.sknp x) s⟩⟩
  all_goals
    simp only [effect, skipIf_pc, hkey]
    cases s.keys[k.val] <;> rfl

/-- Settles O52: the wait begins without a move of pc. -/
theorem keyWaitBegins : Obligations.KeyWaitBegins := fun x s =>
  ⟨_, rfl, rfl, rfl, rfl, rfl, effect_changesOnly (.ldVxK x) s⟩

/-- Settles O53: each is one write, of VX or of a timer. -/
theorem timerMoves : Obligations.TimerMoves := fun x s =>
  ⟨⟨_, rfl, reg_setReg_same s x _, rfl, effect_changesOnly (.ldVxDT x) s⟩,
    ⟨_, rfl, rfl, rfl, effect_changesOnly (.ldDTVx x) s⟩, ⟨_, rfl, rfl, rfl, effect_changesOnly (.ldSTVx x) s⟩⟩

end Sys2Proof.Machine
end

section
/-! PROOFS. The display of `spec/44_display.md`: the pixels and the collision of a draw in terms of the sprite's bits,
one draw and two. -/

namespace Sys2Proof.Machine

open State

/-- Settles O48: the cleared framebuffer has no pixel set. -/
theorem clearScreen : Obligations.ClearScreen := fun s =>
  ⟨_, rfl, Framebuffer.pixel_clear, rfl, rfl, effect_changesOnly .cls s⟩

/-! ### A draw in terms of the sprite's bits -/

/-- The pixels that a draw of `n` rows at I, at (VX, VY), inverts. -/
def drawLights (s : State) (x y : Reg) (n : Nat) : Nat → Nat → Bool :=
  spriteLights (spriteRows s n) (s.reg x).toNat (s.reg y).toNat

/-- A draw inverts the pixels of the grid that the sprite has a bit for (R151, R152). -/
theorem drawLights_iff (s : State) (x y : Reg) (n px py : Nat) :
    drawLights s x y n px py = true ↔ px ≤ 63 ∧ py ≤ 31 ∧ spriteBit s x y n px py := by
  have hrow (k : Nat) (b : Byte) : (spriteRows s n)[k]? = some b ↔ k < n ∧ s.mem.get (s.i.toNat + k) = b := by
    simp [spriteRows, List.getElem?_eq_some_iff]
  simp only [drawLights, spriteLights_iff, hrow, spriteBit, and_assoc, exists_and_left, exists_eq_left']
  constructor
  · rintro ⟨hpx, hpy, hx, hx', hy, hn, hbit⟩
    exact ⟨by omega, by omega, hx, hx', hy, by omega, hbit⟩
  · rintro ⟨hpx, hpy, hx, hx', hy, hn, hbit⟩
    exact ⟨by omega, by omega, hx, hx', hy, by omega, hbit⟩

section
variable (s : State) (x y : Reg) (n : Nat)

/-- Each pixel after a draw that does not fault. -/
theorem pixel_effect_drw (px py : Nat) : Framebuffer.pixel (effect (.drw x y n) s).fb px py =
    ((Framebuffer.pixel s.fb px py) ^^ drawLights s x y n px py) :=
  (Drawing.sprite_draws ⟨s.fb, false⟩ _ _ _).pixel px py

theorem collision_drawn : (drawn s x y n).collision = true ↔
    ∃ px py, drawLights s x y n px py = true ∧ Framebuffer.pixel s.fb px py = true :=
  (Drawing.sprite_draws ⟨s.fb, false⟩ _ _ _).collision.trans (or_iff_right Bool.false_ne_true)

/-- VF is the collision, written last (R151). -/
theorem reg_effect_drw : (effect (.drw x y n) s).reg 15 = flag (drawn s x y n).collision := by
  rw [effect, reg_advance, reg_setFlag, if_pos rfl]

theorem raisedFault_drw_eq_none_iff :
    raisedFault (.drw x y n) s = none ↔ (0 < n → s.i.toNat + n - 1 ≤ 0xFFF) := by
  simp [raisedFault, faultOfTable]

end

theorem flag_eq_one_iff (b : Bool) : flag b = 1 ↔ b = true := by cases b <;> decide

/-- Settles O49: the pixels inverted are those of the sprite's bits, and a collision is a set one among them. -/
theorem drawXorsSprite : Obligations.DrawXorsSprite := by
  refine fun x y n s => ⟨fun hin => ?_, fun hpos hout => exec_of_some (if_pos ⟨hpos, hout⟩)⟩
  refine ⟨_, exec_of_none ((raisedFault_drw_eq_none_iff s x y n).2 hin), fun px py hpx hpy => ?_, ?_, rfl, rfl,
    effect_changesOnly (.drw x y n) s⟩
  · have hlit : drawLights s x y n px py = true ↔ spriteBit s x y n px py := by simp [drawLights_iff, hpx, hpy]
    rw [pixel_effect_drw, ← hlit]
    cases Framebuffer.pixel s.fb px py <;> cases drawLights s x y n px py <;> decide
  · have hcollision := collision_drawn s x y n
    simp only [drawLights_iff] at hcollision
    rw [reg_effect_drw]
    cases hc : (drawn s x y n).collision with
    | true =>
      obtain ⟨px, py, ⟨hpx, hpy, hbit⟩, hset⟩ := hcollision.1 hc
      exact .inl ⟨rfl, px, py, hpx, hpy, hset, hbit⟩
    | false =>
      refine .inr ⟨rfl, fun px py hpx hpy ⟨hset, hbit⟩ => ?_⟩
      cases hc.symm.trans (hcollision.2 ⟨px, py, ⟨hpx, hpy, hbit⟩, hset⟩)

/-! ### Two draws -/

/-- A draw changes nothing that a second draw of the same sprite reads, where its coordinates are not in VF. -/
theorem drawLights_effect_drw (s : State) {x y : Reg} (hx : x ≠ 15) (hy : y ≠ 15) (n : Nat) :
    drawLights (effect (.drw x y n) s) x y n = drawLights s x y n := by
  have hframe := effect_changesOnly (.drw x y n) s
  have hreg (r : Reg) (hr : r ≠ 15) : (effect (.drw x y n) s).reg r = s.reg r :=
    hframe.regs r fun h => hr (List.mem_singleton.1 h)
  have hrows : spriteRows (effect (.drw x y n) s) n = spriteRows s n := rfl
  rw [drawLights, hrows, hreg x hx, hreg y hy]; rfl

/-- A draw that leaves the engine RUNNING did not fault. -/
theorem raisedFault_of_running {i : Instr} {s t : State} (h : exec i s = .next t) (ht : t.engineState = .running) :
    raisedFault i s = none := by
  obtain rfl := eq_afterInstr_of_exec h
  cases hf : raisedFault i s with
  | none => rfl
  | some f => rw [afterInstr_of_some hf] at ht; cases ht

/-- Settles O50: the second draw inverts the same pixels again, and it collides where the first one set a pixel. -/
theorem drawTwiceRestoresScreen : Obligations.DrawTwiceRestoresScreen := by
  intro x y n s t u hx hy _ hfirst ht hsecond
  have hf := raisedFault_of_running hfirst ht
  obtain rfl : effect (.drw x y n) s = t := Host.Outcome.next.inj ((exec_of_none hf).symm.trans hfirst)
  have hf' : raisedFault (.drw x y n) (effect (.drw x y n) s) = none := hf
  obtain rfl : effect (.drw x y n) (effect (.drw x y n) s) = u :=
    Host.Outcome.next.inj ((exec_of_none hf').symm.trans hsecond)
  have hlights := drawLights_effect_drw s hx hy n
  refine ⟨Framebuffer.ext fun px py _ _ => ?_, ?_⟩
  · rw [pixel_effect_drw, pixel_effect_drw, hlights, Bool.xor_assoc, Bool.xor_self, Bool.xor_false]
  · rw [reg_effect_drw, flag_eq_one_iff, collision_drawn, hlights]
    refine exists_congr fun px => exists_congr fun py => ?_
    rw [pixel_effect_drw, ← and_assoc, ← and_assoc, and_assoc (a := px ≤ 63), ← drawLights_iff]
    cases drawLights s x y n px py <;> simp

end Sys2Proof.Machine
end

section
/-! PROOFS. The key wait from beginning to end (`spec/45_input_timers.md` R162, S7), and initialisation
(`spec/70_reset_and_hazards.md` R240). -/

namespace Sys2Proof.Machine

open State

/-! ### The key wait -/

/-- The machine of `s` as the key wait for register x has parked it, with the host's calls to come. -/
def parkedAt (s : State) (x : Reg) (calls : List HostCall) : State := { s with hostCalls := calls }.beginWait x

/-- The same after the press edge of key j has ended the wait (R213). -/
def fulfilledAt (s : State) (x : Reg) (j : Fin 16) (calls : List HostCall) : State :=
  { parkedAt s x calls with
    keys := s.keys.set j.val true, v := s.v.set x.val (BitVec.ofNat 8 j.val), latchWaiting := false }

section
variable {s : State} {x : Reg} {rest : List HostCall}

/-- Part 1 of the key wait, at its word (R162). -/
theorem step_to_parkedAt (hc : s.hostCalls = .step :: rest) (he : s.engineState = .running)
    (hpc : pcFault s.pc = none) (hd : decodeWord (fetchWord s) = some (.ldVxK x)) :
    step s = .next (parkedAt s x rest) :=
  (step_of_cons hc).trans (engineStep_of_instr (s := { s with hostCalls := rest }) he hpc hd)

/-- While the latch waits a step only takes its call off the list (R92). -/
theorem step_parkedAt (s : State) (x : Reg) (rest : List HostCall) :
    step (parkedAt s x (.step :: rest)) = .next (parkedAt s x rest) :=
  (step_of_cons (c := .step) (rest := rest) rfl).trans (engineStep_of_latchWaiting (s := parkedAt s x rest) rfl rfl)

theorem run_parkedAt (s : State) (x : Reg) (rest : List HostCall) (n k : Nat) :
    Host.Core.run Sys2Proof.core (n + k) (parkedAt s x (List.replicate n .step ++ rest)) =
      Host.Core.run Sys2Proof.core k (parkedAt s x rest) := by
  induction n with
  | zero => rw [Nat.zero_add]; rfl
  | succ n ih => rw [Nat.add_right_comm, ← ih]; exact run_succ (step_parkedAt s x _) _

/-- Part 2 of the key wait: the press edge (R213). -/
theorem step_to_fulfilledAt {j : Fin 16} (hup : s.keys[j.val] = false) (x : Reg) (rest : List HostCall) :
    step (parkedAt s x (.setKey j.val true :: rest)) = .next (fulfilledAt s x j rest) :=
  (step_of_cons rfl).trans
    (congrArg _ (((setKeyFulfilsWaitOnEdge j.val true (parkedAt s x rest)).2 j rfl).1 ⟨rfl, hup, rfl⟩))

/-- Part 3 of the key wait: the completing step (R92). -/
theorem step_fulfilledAt (s : State) (x : Reg) (j : Fin 16) (rest : List HostCall) :
    step (fulfilledAt s x j (.step :: rest)) = .next (fulfilledAt s x j rest).endWait :=
  (step_of_cons (c := .step) (rest := rest) rfl).trans (engineStep_of_latchIdle (s := fulfilledAt s x j rest) rfl rfl)

theorem reg_fulfilledAt (s : State) (x : Reg) (j : Fin 16) (r : Reg) :
    (fulfilledAt s x j rest).reg r = if r = x then BitVec.ofNat 8 j.val else s.reg r := reg_setReg s x r _

end

/-- Settles O58: the wait begins, goes on for n steps, ends with the press edge, and the next step completes it. -/
theorem keyWaitProtocol : Obligations.KeyWaitProtocol := by
  intro s x j n hc he hle heven hd hup
  have hwait (k : Nat) : Host.Core.run Sys2Proof.core (n + k + 1) s =
      Host.Core.run Sys2Proof.core k (parkedAt s x [.setKey j.val true, .step]) :=
    (run_succ (step_to_parkedAt hc he (pcFault_of_valid hle heven) hd) _).trans (run_parkedAt s x _ n k)
  refine ⟨parkedAt s x [.setKey j.val true, .step], (fulfilledAt s x j []).endWait, hwait 0, ?_, rfl, rfl, rfl, rfl,
    rfl, ?_, rfl, fun r hr => ?_, rfl, rfl⟩
  · rw [hwait 2, run_succ (step_to_fulfilledAt hup x _), run_succ (step_fulfilledAt s x j [])]; rfl
  · have hj := j.isLt
    rw [reg_endWait, reg_fulfilledAt, if_pos rfl, BitVec.toNat_ofNat]; omega
  · rw [reg_endWait, reg_fulfilledAt, if_neg hr]

/-! ### Initialisation -/

section
variable {p : Params} {rom : List Byte}

/-- Below the ROM stands what the font's copy left. -/
theorem get_loadedMemory_below {a : Nat} (h : a < 0x200) :
    (loadedMemory p rom).get a = (Memory.putAll [] 0 p.font).get a :=
  Memory.get_putAll_other _ _ _ (.inl h)

theorem get_loadedMemory_font (hp : p.wf) {k : Nat} (hk : k < 80) : some ((loadedMemory p rom).get k) = p.font[k]? := by
  obtain ⟨-, -, hlen⟩ := hp
  have hk' : k < p.font.length := by rw [hlen]; exact hk
  have hget := Memory.get_putAll Memory.wf_nil 0 p.font (by rw [hlen]; decide) hk'
  rw [Nat.zero_add] at hget
  rw [get_loadedMemory_below (by omega), hget, List.getElem?_eq_getElem hk']

theorem get_loadedMemory_rom (hp : p.wf) (hrom : rom.length ≤ 3584) {k : Nat} (hk : k < rom.length) :
    some ((loadedMemory p rom).get (0x200 + k)) = rom[k]? := by
  obtain ⟨-, -, hlen⟩ := hp
  have hwf : (Memory.putAll [] Config.fontBase p.font).wf :=
    Memory.putAll_wf Memory.wf_nil _ _ (by rw [hlen]; decide)
  rw [List.getElem?_eq_getElem hk]
  have hends : Config.progBase + rom.length ≤ Config.memSize := by simp only [Config.memSize, Config.progBase]; omega
  exact congrArg some (Memory.get_putAll hwf _ _ hends hk)

/-- An address behind the font reads as zero until it is written (R52). -/
theorem Memory.unlisted_eq_zero {a : Nat} (h : 80 ≤ a) : Memory.unlisted a = 0 := by
  have hlen : defaultFont.length ≤ a := h
  rw [Memory.unlisted, List.getElem?_eq_none hlen]; rfl

/-- Neither copy writes between the font and the ROM or behind the ROM. -/
theorem get_loadedMemory_zero (hp : p.wf) {a : Nat}
    (h : (80 ≤ a ∧ a < 0x200) ∨ (0x200 + rom.length ≤ a ∧ a ≤ 0xFFF)) : (loadedMemory p rom).get a = 0 := by
  obtain ⟨-, -, hlen⟩ := hp
  rw [Config.fontLen] at hlen
  have hrom : (loadedMemory p rom).get a = (Memory.putAll [] 0 p.font).get a :=
    Memory.get_putAll_other _ _ _ (by simp only [Config.progBase]; omega)
  rw [hrom, Memory.get_putAll_other _ _ _ (by omega), Memory.get_nil, Memory.unlisted_eq_zero (by omega)]

end

theorem initMachine_of_tooLarge {rom : List Byte} (h : 3584 < rom.length) (p : Params) (c : Compat) :
    initMachine p rom c = .error (.romTooLarge rom.length) :=
  if_pos (by simp only [Config.memSize, Config.progBase]; omega)

theorem initMachine_of_fits {rom : List Byte} (h : rom.length ≤ 3584) (p : Params) (c : Compat) :
    initMachine p rom c = .ok
      { State.reset with stack := List.replicate p.stackCap 0, mem := loadedMemory p rom, compat := c } :=
  if_neg (by simp only [Config.memSize, Config.progBase]; omega)

/-- Settles O59: memory by the two copies, every other field as after reset. -/
theorem initialisedState : Obligations.InitialisedState := by
  refine fun p rom c hp => ⟨fun hlarge => initMachine_of_tooLarge hlarge p c, fun hfits => ?_⟩
  refine ⟨_, initMachine_of_fits hfits p c, fun k => get_loadedMemory_font hp, fun k => get_loadedMemory_rom hp hfits,
    fun a => get_loadedMemory_zero hp, fun r => Vector.getElem_replicate r.isLt, rfl, rfl, rfl, rfl, rfl, rfl, rfl, rfl,
    Framebuffer.pixel_clear, rfl, fun k => Vector.getElem_replicate k.isLt, rfl, rfl, rfl, rfl, rfl⟩

end Sys2Proof.Machine
end
